-- ==== Sys2Proof/Word.lean ====
section
/-! DEFINITION. The word and byte types of the hardware and their plainest arithmetic
(spec/00_scope.md R7, R9, R12). -/

namespace Sys2Proof

/-- A 64-bit data word, register or address (00_scope R7, `WORD` and `ADDR_W`). -/
abbrev Word := BitVec 64

/-- A byte of the data memory (20_memory R100). -/
abbrev Byte := BitVec 8

/-- `u64(x)` of a non-negative integer: reduction modulo 2^64 (00_scope R9). -/
abbrev u64 (x : Nat) : Word := BitVec.ofNat 64 x

/-- `u64(x)` of any integer: reduction modulo 2^64 (00_scope R9). -/
abbrev u64i (x : Int) : Word := BitVec.ofInt 64 x

end Sys2Proof
end

