-- ==== Sys2Proof/Syntax.lean ====
section
/-! DEFINITION. The commands of the BP64 command set (spec/30_encoding.md R140 to R145, spec/opcode_table.json):
one constructor of `Instr` for each row of the opcode map R144. -/

namespace Sys2Proof

/-- The packed formats, by the format ids of 30_encoding R160 (FMT field of R140). -/
inductive Format where
  /-- FMT = 0, PACKED. -/
  | packed
  /-- FMT = 1, PACKED_SINGLE_BLOCK. -/
  | singleBlock
deriving DecidableEq, Repr

/-- A command. `bpv` is the BPV field read as an unsigned integer (30_encoding R141), carried by the rows of R144
that use it; `fmt` is the FMT field of the rows that use it. All other operands are read from `ARG0` to `ARG7`. -/
inductive Instr where
  | nop
  | fsSelect (bpv : Nat)
  | bpGeom (bpv : Nat) (fmt : Format)
  | unitReset
  | bpDecLL (bpv : Nat) (fmt : Format)
  | bpDecBL (bpv : Nat) (fmt : Format)
  | bpEncLL (bpv : Nat) (fmt : Format)
  | bpEncLB (bpv : Nat) (fmt : Format)
  | deInit
  | deInitMono
  | deAdd
  | deFinish
  | ddInit
  | ddInitMono
  | ddNext
  | ddSkip
  | gbInit
  | gbInitMono
  | gbAdd
  | gbGet
  | gbIterReset
  | gbIterNext
  | gwInit (bpv : Nat)
  | gwGet
  | gwSet
  | gwResize
  | pgInit (bpv : Nat)
  | pgGet
  | pgSet
  | pgResize
  | pgGrow
  | pgPageBpv
  | efeInit
  | efeEncode
  | efeFinish
  | efdInit
  | efdNext
  | efdAdvance
  | efdPrev
  | efdBack
  | efdToBefore
  | efdToAfter
  | efdCurrent
deriving DecidableEq, Repr

end Sys2Proof
end

