-- ==== Sys2Proof/WellFormed.lean ====
section
/-! DEFINITION. Which commands have an encoding: the BPV operand of a command that carries one must fit the 7-bit
BPV field (spec/30_encoding.md R140, R141). Legal widths (1 to 64, SB_WIDTHS) are no matter of form: a command whose
BPV fits the field but is no legal width is well formed and raises `InvalidBitWidth` (R142). -/

namespace Sys2Proof

/-- The BPV field holds `bpv` (30_encoding R141: an unsigned 7-bit integer, 0 to 127). -/
abbrev bpvFits (bpv : Nat) : Prop := bpv < 128

/-- A command that the command word can carry. -/
def Instr.wellFormedB : Instr → Bool
  | .fsSelect bpv => decide (bpvFits bpv)
  | .bpGeom bpv _ => decide (bpvFits bpv)
  | .bpDecLL bpv _ => decide (bpvFits bpv)
  | .bpDecBL bpv _ => decide (bpvFits bpv)
  | .bpEncLL bpv _ => decide (bpvFits bpv)
  | .bpEncLB bpv _ => decide (bpvFits bpv)
  | .gwInit bpv => decide (bpvFits bpv)
  | .pgInit bpv => decide (bpvFits bpv)
  | .nop => true
  | .unitReset => true
  | .deInit => true
  | .deInitMono => true
  | .deAdd => true
  | .deFinish => true
  | .ddInit => true
  | .ddInitMono => true
  | .ddNext => true
  | .ddSkip => true
  | .gbInit => true
  | .gbInitMono => true
  | .gbAdd => true
  | .gbGet => true
  | .gbIterReset => true
  | .gbIterNext => true
  | .gwGet => true
  | .gwSet => true
  | .gwResize => true
  | .pgGet => true
  | .pgSet => true
  | .pgResize => true
  | .pgGrow => true
  | .pgPageBpv => true
  | .efeInit => true
  | .efeEncode => true
  | .efeFinish => true
  | .efdInit => true
  | .efdNext => true
  | .efdAdvance => true
  | .efdPrev => true
  | .efdBack => true
  | .efdToBefore => true
  | .efdToAfter => true
  | .efdCurrent => true

/-- A command that the command word can carry, as a proposition. -/
abbrev WellFormed (i : Instr) : Prop := i.wellFormedB = true

end Sys2Proof
end

