-- ==== Sys2Proof/Decode.lean ====
section
/-! DEFINITION. The decoder of command words, total and rejecting by name, and the encoder, both from the command
word's fields and the opcode map (spec/30_encoding.md R140 to R145). -/

namespace Sys2Proof

/-- Why a command word is illegal (30_encoding R142); every one completes with `IllegalCommand`. -/
inductive DecodeError where
  /-- The OPC field is not in the opcode map (R144, R145). -/
  | unassignedOpcode
  /-- A reserved bit of [63:16] is set (R140). -/
  | reservedBits
  /-- The BPV field is non-zero where the row says `Z` (R142). -/
  | bpvNotZero
  /-- The FMT field is non-zero where the row says `Z` (R142). -/
  | fmtNotZero
deriving DecidableEq, Repr

/-- The OPC field, bits 7:0 (R140). -/
def opcField (c : Word) : Nat := c.toNat % 2 ^ 8

/-- The BPV field, bits 14:8 (R140), an unsigned 7-bit integer (R141). -/
def bpvField (c : Word) : Nat := c.toNat / 2 ^ 8 % 2 ^ 7

/-- The FMT field, bit 15 (R140). -/
def fmtField (c : Word) : Nat := c.toNat / 2 ^ 15 % 2

/-- The reserved bits 63:16 (R140). -/
def reservedField (c : Word) : Nat := c.toNat / 2 ^ 16

/-- The format a FMT field of 0 or 1 names (R160). -/
def formatOf (f : Nat) : Format := if f = 0 then .packed else .singleBlock

/-- The format id (R160). -/
def formatId : Format → Nat
  | .packed => 0
  | .singleBlock => 1

/-- A row of the opcode map R144 with its use of BPV and FMT: both must be zero, BPV used, or both used. -/
inductive OpcodeRow where
  | zz (i : Instr)
  | wz (i : Nat → Instr)
  | wf (i : Nat → Format → Instr)

/-- The opcode map (R144); `none` for the reserved opcodes (R145). -/
def opcodeRow : Nat → Option OpcodeRow
  | 0x00 => some (.zz .nop)
  | 0x01 => some (.wz .fsSelect)
  | 0x02 => some (.wf .bpGeom)
  | 0x03 => some (.zz .unitReset)
  | 0x10 => some (.wf .bpDecLL)
  | 0x11 => some (.wf .bpDecBL)
  | 0x12 => some (.wf .bpEncLL)
  | 0x13 => some (.wf .bpEncLB)
  | 0x20 => some (.zz .deInit)
  | 0x21 => some (.zz .deInitMono)
  | 0x22 => some (.zz .deAdd)
  | 0x23 => some (.zz .deFinish)
  | 0x28 => some (.zz .ddInit)
  | 0x29 => some (.zz .ddInitMono)
  | 0x2A => some (.zz .ddNext)
  | 0x2B => some (.zz .ddSkip)
  | 0x30 => some (.zz .gbInit)
  | 0x31 => some (.zz .gbInitMono)
  | 0x32 => some (.zz .gbAdd)
  | 0x33 => some (.zz .gbGet)
  | 0x34 => some (.zz .gbIterReset)
  | 0x35 => some (.zz .gbIterNext)
  | 0x40 => some (.wz .gwInit)
  | 0x41 => some (.zz .gwGet)
  | 0x42 => some (.zz .gwSet)
  | 0x43 => some (.zz .gwResize)
  | 0x48 => some (.wz .pgInit)
  | 0x49 => some (.zz .pgGet)
  | 0x4A => some (.zz .pgSet)
  | 0x4B => some (.zz .pgResize)
  | 0x4C => some (.zz .pgGrow)
  | 0x4D => some (.zz .pgPageBpv)
  | 0x50 => some (.zz .efeInit)
  | 0x51 => some (.zz .efeEncode)
  | 0x52 => some (.zz .efeFinish)
  | 0x58 => some (.zz .efdInit)
  | 0x59 => some (.zz .efdNext)
  | 0x5A => some (.zz .efdAdvance)
  | 0x5B => some (.zz .efdPrev)
  | 0x5C => some (.zz .efdBack)
  | 0x5D => some (.zz .efdToBefore)
  | 0x5E => some (.zz .efdToAfter)
  | 0x5F => some (.zz .efdCurrent)
  | _ => none

/-- Decoding of a command word: the opcode first, then the reserved and `Z` fields (R143, R142). -/
def decode (c : Word) : Except DecodeError Instr :=
  match opcodeRow (opcField c) with
  | none => .error .unassignedOpcode
  | some row =>
    if reservedField c ≠ 0 then .error .reservedBits
    else match row with
      | .zz i =>
        if bpvField c ≠ 0 then .error .bpvNotZero
        else if fmtField c ≠ 0 then .error .fmtNotZero
        else .ok i
      | .wz i => if fmtField c ≠ 0 then .error .fmtNotZero else .ok (i (bpvField c))
      | .wf i => .ok (i (bpvField c) (formatOf (fmtField c)))

/-- `EncodeCmd(opc, bpv, fmt)` (R140). -/
def encodeCmd (opc bpv fmt : Nat) : Word := BitVec.ofNat 64 (opc + bpv * 2 ^ 8 + fmt * 2 ^ 15)

/-- The command word of a well-formed command: the OPC of its row of R144, its BPV and FMT operands, zero
elsewhere (R140). -/
def encode : Instr → Word
  | .nop => encodeCmd 0x00 0 0
  | .fsSelect bpv => encodeCmd 0x01 bpv 0
  | .bpGeom bpv fmt => encodeCmd 0x02 bpv (formatId fmt)
  | .unitReset => encodeCmd 0x03 0 0
  | .bpDecLL bpv fmt => encodeCmd 0x10 bpv (formatId fmt)
  | .bpDecBL bpv fmt => encodeCmd 0x11 bpv (formatId fmt)
  | .bpEncLL bpv fmt => encodeCmd 0x12 bpv (formatId fmt)
  | .bpEncLB bpv fmt => encodeCmd 0x13 bpv (formatId fmt)
  | .deInit => encodeCmd 0x20 0 0
  | .deInitMono => encodeCmd 0x21 0 0
  | .deAdd => encodeCmd 0x22 0 0
  | .deFinish => encodeCmd 0x23 0 0
  | .ddInit => encodeCmd 0x28 0 0
  | .ddInitMono => encodeCmd 0x29 0 0
  | .ddNext => encodeCmd 0x2A 0 0
  | .ddSkip => encodeCmd 0x2B 0 0
  | .gbInit => encodeCmd 0x30 0 0
  | .gbInitMono => encodeCmd 0x31 0 0
  | .gbAdd => encodeCmd 0x32 0 0
  | .gbGet => encodeCmd 0x33 0 0
  | .gbIterReset => encodeCmd 0x34 0 0
  | .gbIterNext => encodeCmd 0x35 0 0
  | .gwInit bpv => encodeCmd 0x40 bpv 0
  | .gwGet => encodeCmd 0x41 0 0
  | .gwSet => encodeCmd 0x42 0 0
  | .gwResize => encodeCmd 0x43 0 0
  | .pgInit bpv => encodeCmd 0x48 bpv 0
  | .pgGet => encodeCmd 0x49 0 0
  | .pgSet => encodeCmd 0x4A 0 0
  | .pgResize => encodeCmd 0x4B 0 0
  | .pgGrow => encodeCmd 0x4C 0 0
  | .pgPageBpv => encodeCmd 0x4D 0 0
  | .efeInit => encodeCmd 0x50 0 0
  | .efeEncode => encodeCmd 0x51 0 0
  | .efeFinish => encodeCmd 0x52 0 0
  | .efdInit => encodeCmd 0x58 0 0
  | .efdNext => encodeCmd 0x59 0 0
  | .efdAdvance => encodeCmd 0x5A 0 0
  | .efdPrev => encodeCmd 0x5B 0 0
  | .efdBack => encodeCmd 0x5C 0 0
  | .efdToBefore => encodeCmd 0x5D 0 0
  | .efdToAfter => encodeCmd 0x5E 0 0
  | .efdCurrent => encodeCmd 0x5F 0 0

/-- The command word whose low `nbits` bits are those of `w` and whose other bits are 0 (the hardware takes a command
as one 64-bit value, R143: there is no byte order to lay out). -/
def tableWord (nbits w : Nat) : Word := BitVec.ofNat 64 (w % 2 ^ nbits)

/-- The command the decoder reads from a word of the opcode table. -/
def decodeTableWord (nbits w : Nat) : Option Instr :=
  match decode (tableWord nbits w) with
  | .ok i => some i
  | .error _ => none

end Sys2Proof
end

