-- ==== Sys2Proof/Machine/Bits.lean ====
section
/-! DEFINITION. Bit arithmetic that every family uses (spec/00_scope.md R9 to R13): division rounding up, masks,
lengths, zigzag codes, and the fields of a bitstream read as one number. -/

namespace Sys2Proof.Machine

/-- `ceil_div(a, b)` (00_scope R9). -/
def ceilDiv (a b : Nat) : Nat := (a + b - 1) / b

/-- `mask(w) = 2^w - 1` (00_scope R13). -/
def mask (w : Nat) : Nat := 2 ^ w - 1

/-- `maxValue(w) = mask(w)` (00_scope R13). -/
def maxValue (w : Nat) : Nat := mask w

/-- `bitlen(v)` (00_scope R13): 0 for 0, else the position of the most significant one bit plus one. -/
def bitlen (v : Nat) : Nat := if v = 0 then 0 else Nat.log2 v + 1

/-- `popcount(v)` (00_scope R13). -/
def popcount (v : Word) : Nat := ((List.range 64).filter (fun k => v.getLsbD k)).length

/-- Zigzag encoding `zz(n)` (00_scope R13): `(n << 1) XOR (n >> 63)`, the right shift arithmetic. -/
def zz (n : Word) : Word := (n <<< 1) ^^^ (n.sshiftRight 63)

/-- Zigzag decoding `unzz(z)` (00_scope R13): `(z >>> 1) XOR (0 - (z AND 1))`. -/
def unzz (z : Word) : Word := (z >>> 1) ^^^ (0 - (z &&& 1))

/-- A power of two (42_delta_encoder R261). -/
def isPow2 (n : Nat) : Bool := n != 0 && 2 ^ Nat.log2 n == n

/-- The stream of fixed-width fields `vs`, each taken to `w` bits, the first field and the most significant bit
first (30_encoding R150), as one number of `vs.length * w` bits. -/
def joinFields (w : Nat) (vs : List Nat) : Nat := vs.foldl (fun acc v => acc * 2 ^ w + v % 2 ^ w) 0

/-- Stream bits `[pos, pos + w)` of a stream of `len` bits held as one number, most significant bit first
(30_encoding R155). -/
def fieldAt (len stream pos w : Nat) : Nat := stream / 2 ^ (len - (pos + w)) % 2 ^ w

/-- The first `c` fields of width `w` of a stream of `len` bits (30_encoding R155). -/
def splitFields (w c len stream : Nat) : List Nat := (List.range c).map (fun j => fieldAt len stream (j * w) w)

/-- The `n` low bytes of a number, most significant first (20_memory R102), in front of `acc`. -/
def bytesOnto (acc : List Byte) : Nat → Nat → List Byte
  | 0, _ => acc
  | n + 1, v => bytesOnto (BitVec.ofNat 8 v :: acc) n (v / 256)

/-- The `n` low bytes of a number, most significant first (20_memory R102). -/
def bytesOf (n v : Nat) : List Byte := bytesOnto [] n v

end Sys2Proof.Machine
end

