-- ==== Sys2Proof/Config.lean ====
section
/-! DEFINITION. What an implementation fixes (the parameters of spec/00_scope.md R7) and the free values of
the results the spec leaves unspecified (spec/93_implementation_defined.md, `any value`). The constants with
no body are opaque: no proof can see what they are. -/

namespace Sys2Proof

/-- The parameters of one device (00_scope R7). They are held in the state, because the P_ registers read them
(10_state R46); the fixed parameters `MIN_BLOCK` and `MAX_BLOCK` are constants below. -/
structure Params where
  /-- `MEM_BYTES`: size of the data memory in bytes. -/
  memBytes : Nat
  /-- `REG_BASE`: platform address of the register window. -/
  regBase : Word
  /-- `MAX24`: largest value count for which the format selector may choose width 24. -/
  max24 : Nat
  /-- `MAX48`: the same for width 48. -/
  max48 : Nat
  /-- `GB_MAX_BLOCKS`: packed-block slots of the growable buffer. -/
  gbMaxBlocks : Nat
  /-- `GB_STORE_WORDS`: words of packed storage of the growable buffer. -/
  gbStoreWords : Nat
  /-- `GW_STORE_WORDS`: words of storage of the growable writer. -/
  gwStoreWords : Nat
  /-- `PG_MAX_PAGES`: pages of the paged array. -/
  pgMaxPages : Nat
  /-- `PG_STORE_WORDS`: words of storage of the paged array. -/
  pgStoreWords : Nat
  /-- `EF_MAX_VALUES`: largest value count of an Elias-Fano sequence. -/
  efMaxValues : Nat
deriving DecidableEq, Repr

/-- The bounds the spec sets on the parameters (00_scope R7, 10_state R46, 41 R240; that `REG_BASE` is a multiple
of 8 is DEDUCED, log 3). -/
abbrev Params.legal (p : Params) : Prop :=
  (p.memBytes % 8 = 0 ∧ 8 ≤ p.memBytes ∧ p.memBytes < 2 ^ 64) ∧
  p.regBase.toNat % 8 = 0 ∧
  (p.max24 < 2 ^ 64 - 1 ∧ p.max48 < 2 ^ 64 - 1) ∧
  (1 ≤ p.gbMaxBlocks ∧ p.gbMaxBlocks < 2 ^ 64) ∧
  (64 ≤ p.gbStoreWords ∧ p.gbStoreWords < 2 ^ 64) ∧
  (1 ≤ p.gwStoreWords ∧ p.gwStoreWords < 2 ^ 64) ∧
  (1 ≤ p.pgMaxPages ∧ p.pgMaxPages < 2 ^ 64) ∧
  (1 ≤ p.pgStoreWords ∧ p.pgStoreWords < 2 ^ 64) ∧
  (1 ≤ p.efMaxValues ∧ p.efMaxValues ≤ 2 ^ 62)

/-- `MIN_BLOCK`: smallest block and page size (00_scope R7). -/
abbrev Config.minBlock : Nat := 64

/-- `MAX_BLOCK`: largest block and page size (00_scope R7). -/
abbrev Config.maxBlock : Nat := 4096

/-- Where the device's `MEM_BYTES` comes from (OPEN, 00_scope R7; log 2). -/
opaque Config.openMemBytes : Nat
/-- Where the device's `REG_BASE` comes from (OPEN, 00_scope R7; log 2, log 3). -/
opaque Config.openRegBase : Nat
/-- Where the device's `MAX24` comes from (OPEN, 00_scope R7; log 2). -/
opaque Config.openMax24 : Nat
/-- Where the device's `MAX48` comes from (OPEN, 00_scope R7; log 2). -/
opaque Config.openMax48 : Nat
/-- Where the device's `GB_MAX_BLOCKS` comes from (OPEN, 00_scope R7; log 2). -/
opaque Config.openGbMaxBlocks : Nat
/-- Where the device's `GB_STORE_WORDS` comes from (OPEN, 00_scope R7; log 2). -/
opaque Config.openGbStoreWords : Nat
/-- Where the device's `GW_STORE_WORDS` comes from (OPEN, 00_scope R7; log 2). -/
opaque Config.openGwStoreWords : Nat
/-- Where the device's `PG_MAX_PAGES` comes from (OPEN, 00_scope R7; log 2). -/
opaque Config.openPgMaxPages : Nat
/-- Where the device's `PG_STORE_WORDS` comes from (OPEN, 00_scope R7; log 2). -/
opaque Config.openPgStoreWords : Nat
/-- Where the device's `EF_MAX_VALUES` comes from (OPEN, 00_scope R7; log 2). -/
opaque Config.openEfMaxValues : Nat

/-- The parameters of the device the reset state is of: nothing is known of them but the bounds of 00_scope R7.
Each is its open constant brought into its range; every legal value is the image of itself, so no legal device is
left out (log 2). -/
def Config.params : Params where
  memBytes := 8 * (Config.openMemBytes % (2 ^ 61 - 1) + 1)
  regBase := BitVec.ofNat 64 (8 * Config.openRegBase)
  max24 := Config.openMax24 % (2 ^ 64 - 1)
  max48 := Config.openMax48 % (2 ^ 64 - 1)
  gbMaxBlocks := Config.openGbMaxBlocks % (2 ^ 64 - 1) + 1
  gbStoreWords := Config.openGbStoreWords % (2 ^ 64 - 64) + 64
  gwStoreWords := Config.openGwStoreWords % (2 ^ 64 - 1) + 1
  pgMaxPages := Config.openPgMaxPages % (2 ^ 64 - 1) + 1
  pgStoreWords := Config.openPgStoreWords % (2 ^ 64 - 1) + 1
  efMaxValues := Config.openEfMaxValues % 2 ^ 62 + 1

/-- The free 64-bit value drawn k-th (93_implementation_defined, `any value`; log 4). -/
opaque Config.freeWord : Nat → Word

/-- The free byte drawn k-th (93_implementation_defined, `any value`; log 4). -/
opaque Config.freeByte : Nat → Byte

end Sys2Proof
end

