-- ==== Sys2Proof/Machine/State.lean ====
section
/-! DEFINITION. The state of the machine as plain data: everything spec/10_state.md gives it (R30 to R55), the
parameters of the device (spec/00_scope.md R7), and the model's own fields (the host's accesses still to come, the
value of its last load, the count of free values drawn, and the hazards committed while a command runs). -/

namespace Sys2Proof.Machine

/-! ## The register window (10_state R31 to R46) -/

/-- STATUS (R34): its fields; the reserved bits read 0. -/
structure Status where
  /-- bit 0, a command is executing. -/
  busy : Bool := false
  /-- bit 1, the last accepted command has completed. -/
  done : Bool := false
  /-- bit 2, the last completed command ended with an error. -/
  err : Bool := false
  /-- bit 3, sticky: a CMD write was dropped. -/
  ovr : Bool := false
  /-- bit 4, sticky: some command ended with an error. -/
  errSticky : Bool := false
  /-- bits 15:8, error code of the last completed command. -/
  errCode : BitVec 8 := 0
  /-- bits 23:16, opcode field of the last accepted command. -/
  lastOpc : BitVec 8 := 0
deriving DecidableEq, Repr

/-- CTRL (R36): the two interrupt enables; SRST and the reserved bits read 0. -/
structure Ctrl where
  /-- bit 0. -/
  ieDone : Bool := false
  /-- bit 1. -/
  ieErr : Bool := false
deriving DecidableEq, Repr

/-- IRQ_STATUS (R38): the two pending bits; the others read 0. -/
structure IrqStatus where
  /-- bit 0. -/
  doneIrq : Bool := false
  /-- bit 1. -/
  errIrq : Bool := false
deriving DecidableEq, Repr

/-- ARG0 to ARG7 (R40). -/
structure Args where
  a0 : Word := 0
  a1 : Word := 0
  a2 : Word := 0
  a3 : Word := 0
  a4 : Word := 0
  a5 : Word := 0
  a6 : Word := 0
  a7 : Word := 0
deriving DecidableEq, Repr

/-- RES0 to RES3 (R41). -/
structure Results where
  r0 : Word := 0
  r1 : Word := 0
  r2 : Word := 0
  r3 : Word := 0
deriving DecidableEq, Repr

/-! ## The unit contexts (10_state R47 to R54) -/

/-- State field of the delta encoder (R47). -/
inductive DeState where
  | uninit | idle | buffering | finished
deriving DecidableEq, Repr

/-- Delta encoder context (R47); `buf` is hidden (R54). -/
structure DeltaEncoder where
  state : DeState := .uninit
  mono : Bool := false
  /-- B, DE_BLOCKSIZE. -/
  blockSize : Word := 0
  /-- p, DE_PENDING. -/
  pending : Word := 0
  /-- DE_ORD. -/
  ord : Word := 0
  /-- `de.buf[0..B-1]`; the first p entries are the buffered values. -/
  buf : List Word := []
deriving DecidableEq, Repr

/-- State field of the delta decoder (R48). -/
inductive DdState where
  | uninit | ready | poisoned
deriving DecidableEq, Repr

/-- Delta decoder context (R48); `buf` is hidden (R54). -/
structure DeltaDecoder where
  state : DdState := .uninit
  mono : Bool := false
  /-- B, DD_BLOCKSIZE. -/
  blockSize : Word := 0
  /-- N, DD_VALUECOUNT. -/
  count : Word := 0
  /-- DD_ORD. -/
  ord : Word := 0
  /-- DD_OFF. -/
  off : Word := 0
  /-- `dd.buf[0..B-1]`. -/
  buf : List Word := []
deriving DecidableEq, Repr

/-- State field of the growable append buffer, growable writer, paged array and Elias-Fano decoder
(R49, R50, R51, R53). -/
inductive UnitState where
  | uninit | ready
deriving DecidableEq, Repr

/-- A packed block of the growable append buffer (R49). -/
structure GbBlock where
  base : Word
  /-- a binary32 pattern, used only by the monotonic variant. -/
  avg : BitVec 32
  /-- residue width, 0 to 64. -/
  bits : Nat
  res : List Word
deriving DecidableEq, Repr

/-- Growable append buffer context (R49); `blk` and `pend` are hidden (R54). GB_NBLOCKS and GB_STORE_USED are views
of `blk` (log 17). -/
structure GrowableBuffer where
  state : UnitState := .uninit
  mono : Bool := false
  /-- P, GB_PAGESIZE. -/
  pageSize : Word := 0
  /-- GB_SIZE. -/
  size : Word := 0
  /-- `gb.blk[0..nblocks-1]`. -/
  blk : List GbBlock := []
  /-- `gb.pend[0..P-1]`. -/
  pend : List Word := []
  /-- GB_ITER_POS. -/
  ipos : Word := 0
  /-- GB_ITER_END. -/
  iend : Word := 0
deriving DecidableEq, Repr

/-- Growable writer context (R50). `val` lists the non-zero values by index, indices rising (log 21); it is hidden
(R54). GW_STORE_USED is computed (R50). -/
structure GrowableWriter where
  state : UnitState := .uninit
  /-- GW_SIZE. -/
  size : Word := 0
  /-- GW_BPV. -/
  bpv : Word := 0
  val : List (Nat × Word) := []
deriving DecidableEq, Repr

/-- A page of the paged array (R51): its width, and its non-zero values by offset, offsets rising (log 21). -/
structure PgPage where
  w : Nat
  val : List (Nat × Word)
deriving DecidableEq, Repr

/-- Paged array context (R51); `pages` is hidden (R54). PG_NPAGES is the length of `pages`, PG_STORE_USED is computed
(log 17). -/
structure PagedArray where
  state : UnitState := .uninit
  /-- PG_SIZE. -/
  size : Word := 0
  /-- s, PG_PAGESHIFT. -/
  shift : Word := 0
  /-- PG_BPV, the declared width. -/
  bpv0 : Word := 0
  pages : List PgPage := []
deriving DecidableEq, Repr

/-- State field of the Elias-Fano encoder (R52). -/
inductive EfeState where
  | uninit | encoding | finished
deriving DecidableEq, Repr

/-- Elias-Fano encoder context (R52), each field a register of the same name. -/
structure EfEncoder where
  state : EfeState := .uninit
  n : Word := 0
  u : Word := 0
  i : Word := 0
  l : Word := 0
  e : Word := 0
  nidx : Word := 0
  numEnc : Word := 0
  last : Word := 0
  ub : Word := 0
  lb : Word := 0
  ib : Word := 0
  next : Word := 0
deriving DecidableEq, Repr

/-- Direction of the Elias-Fano decoder (R53). -/
inductive Direction where
  | forward | backward
deriving DecidableEq, Repr

/-- Elias-Fano decoder context (R53). -/
structure EfDecoder where
  state : UnitState := .uninit
  dir : Direction := .forward
  n : Word := 0
  u : Word := 0
  i : Word := 0
  l : Word := 0
  e : Word := 0
  ub : Word := 0
  lb : Word := 0
  ib : Word := 0
  /-- `currentIndex`, EFD_INDEX reads u64 of it. -/
  idx : Int := 0
  /-- `currentHighBitPosition`, EFD_HIGHPOS reads u64 of it. -/
  hp : Int := 0
deriving DecidableEq, Repr

/-! ## The data memory (20_memory R100) -/

/-- The data memory: the bytes that differ from what an unlisted address reads as, by address. -/
abbrev Memory := List Host.Cell

/-- What an address that nothing has written reads as: 0. DESIGN CHOICE, unsafe (log 1): the spec leaves the contents
at power-on open (70_reset R581). -/
abbrev memDefault : Byte := 0

/-- The one canonical form of the memory: addresses strictly rising, no listed byte equal to what an unlisted
address reads as. -/
abbrev Memory.wf (m : Memory) : Prop :=
  m.Pairwise (fun x y => x.1 < y.1) ∧ ∀ c ∈ m, c.2 ≠ memDefault

/-! ## The model's own fields -/

/-- An access of the host (10_state R32, 30_encoding R190). Addresses of the window are platform addresses. -/
inductive HostAccess where
  /-- A load of `width` bytes from the register window. -/
  | regLoad (width : Nat) (addr : Word)
  /-- A store of `width` bytes to the register window. -/
  | regStore (width : Nat) (addr : Word) (value : Word)
  /-- `ld8`: a 64-bit big-endian load of the data memory. -/
  | memLoadWord (addr : Nat)
  /-- `ldb`: a byte load of the data memory. -/
  | memLoadByte (addr : Nat)
  /-- `st8`: a 64-bit big-endian store to the data memory. -/
  | memStoreWord (addr : Nat) (value : Word)
  /-- `stb`: a byte store to the data memory. -/
  | memStoreByte (addr : Nat) (value : Byte)
deriving DecidableEq, Repr

/-- One entry of the input list (log 5): an access of the host, a turn of the engine (which completes the running
command, if one is running), an access of the host in the same step as the turn of the engine that completes the running
command (60_exceptions R546; log 6), or the hardware reset input (70_reset R580). -/
inductive Input where
  | host (a : HostAccess)
  | engine
  | hostAndEngine (a : HostAccess)
  | hardReset
deriving DecidableEq, Repr

/-- The hazards of 70_reset R590 that the host has committed against the running command. -/
structure Hazard where
  /-- item 2: an operand or stream register was written while BUSY (log 7). -/
  operands : Bool := false
  /-- item 4: ranges (start, length) of the data memory that the running command uses and the host stored to while
  BUSY (log 8). -/
  ranges : List (Nat × Nat) := []
deriving DecidableEq, Repr

/-- The machine's state. -/
structure State where
  /-- The device's parameters (00_scope R7), read through the P_ registers (R46). -/
  cfg : Params
  /-- STATUS (R34). -/
  status : Status := {}
  /-- CTRL (R36). -/
  ctrl : Ctrl := {}
  /-- IRQ_STATUS (R38). -/
  irq : IrqStatus := {}
  /-- ERRINFO (R39). -/
  errInfo : Word := 0
  /-- The command word last accepted, which the engine holds while it executes (R33, 60_exceptions R536; log 23). -/
  cmd : Word := 0
  /-- ARG0 to ARG7 (R40). -/
  args : Args := {}
  /-- RES0 to RES3 (R41). -/
  res : Results := {}
  /-- IN_PTR (R42). -/
  inPtr : Word := 0
  /-- IN_END (R42). -/
  inEnd : Word := 0
  /-- OUT_PTR (R43). -/
  outPtr : Word := 0
  /-- OUT_END (R43). -/
  outEnd : Word := 0
  /-- Delta encoder context (R47). -/
  de : DeltaEncoder := {}
  /-- Delta decoder context (R48). -/
  dd : DeltaDecoder := {}
  /-- Growable append buffer context (R49). -/
  gb : GrowableBuffer := {}
  /-- Growable writer context (R50). -/
  gw : GrowableWriter := {}
  /-- Paged array context (R51). -/
  pg : PagedArray := {}
  /-- Elias-Fano encoder context (R52). -/
  efe : EfEncoder := {}
  /-- Elias-Fano decoder context (R53). -/
  efd : EfDecoder := {}
  /-- Data memory (20_memory R100). -/
  mem : Memory := []
  /-- The model's own: inputs still to come (log 5). -/
  inputs : List Input := []
  /-- The model's own: the value the host's last load returned (log 23). -/
  hostData : Word := 0
  /-- The model's own: how many free values have been drawn (log 4). -/
  fresh : Nat := 0
  /-- The model's own: hazards committed against the running command (log 7, log 8). -/
  hazard : Hazard := {}
deriving DecidableEq, Repr

/-- Why the machine stops with a fault. No command of the engine raises one. -/
inductive Fault where
  /-- Raised by a host load or store of the data memory that touches an address at or past `MEM_BYTES`: the spec
  gives the data memory no such address (20_memory R100). Safe: nothing is said of what follows (log 16). -/
  | hostDataAddressOutside (addr : Nat)
deriving DecidableEq, Repr

/-- Why the machine refuses to go on. No command of the engine raises one. -/
inductive Refusal where
  /-- Raised by an instruction that has no meaning in the model. Safe. -/
  | notModelled (mnemonic : String)
  /-- Raised by a host access to the register window that is not a naturally aligned 64-bit load or store
  (10_state R32, 93_implementation_defined `refuse`). Safe: nothing is said of what follows (log 16). -/
  | windowAccessNotAligned64
  /-- Raised by a host access to a platform address outside the 4096-byte register window: it does not reach this
  hardware (10_state R32). Safe (log 16). -/
  | addressOutsideWindow
deriving DecidableEq, Repr

/-- The state right after reset of a device with parameters `p` (70_reset R580, R581): every register and context at
its reset value, nothing listed in the data memory. -/
def State.resetOf (p : Params) : State := { cfg := p }

/-- The machine right after reset (70_reset R580), of the device whose parameters Config leaves open (log 2). -/
def State.reset : State := State.resetOf Config.params

end Sys2Proof.Machine
end

