-- ==== Sys2Proof/Machine/Flags.lean ====
section
/-! DEFINITION. Every flag computation the spec gives: the status flags of command acceptance and completion
(spec/60_exceptions.md R535, R536, R540), the words STATUS, CTRL and IRQ_STATUS read as (spec/10_state.md R34, R36,
R38), the interrupt output (R545), and the codes of the unit state fields (spec/10_state.md R47 to R53). There are no
arithmetic flags (R44). -/

namespace Sys2Proof.Machine

/-- The error kinds of 60_exceptions R530. -/
inductive ErrCode where
  | invalidBitWidth
  | capacityExceeded
  | prematureEndOfStream
  | alreadyFinished
  | illegalCommand
  | invalidArgument
  | accessFault
  | alignmentFault
  | indexOutOfRange
  | notInitialized
  | sequenceError
  | directionError
  | outputOverflow
deriving DecidableEq, Repr

/-- The code reported in STATUS.ERRCODE (R530). -/
def errCodeNumber : ErrCode → BitVec 8
  | .invalidBitWidth => 1
  | .capacityExceeded => 2
  | .prematureEndOfStream => 3
  | .alreadyFinished => 4
  | .illegalCommand => 5
  | .invalidArgument => 6
  | .accessFault => 7
  | .alignmentFault => 8
  | .indexOutOfRange => 9
  | .notInitialized => 10
  | .sequenceError => 11
  | .directionError => 12
  | .outputOverflow => 13

/-- STATUS when a command word is accepted (R536): BUSY set; DONE, ERR, ERRCODE cleared; LASTOPC the opcode field; the
sticky bits kept. -/
def statusAccept (t : Status) (c : Word) : Status :=
  { t with busy := true, done := false, err := false, errCode := 0, lastOpc := c.extractLsb' 0 8 }

/-- STATUS when a command completes without error (R535). -/
def statusComplete (t : Status) : Status := { t with busy := false, done := true }

/-- STATUS when a command completes with an error (R535). -/
def statusCompleteErr (t : Status) (e : ErrCode) : Status :=
  { t with busy := false, done := true, err := true, errCode := errCodeNumber e, errSticky := true }

/-- STATUS when a CMD write is dropped (R540). -/
def statusOverrun (t : Status) : Status := { t with ovr := true }

/-- STATUS after a write of `v` to STATUS_CLR (10_state R37). -/
def statusClear (t : Status) (v : Word) : Status :=
  { t with ovr := t.ovr && !v.getLsbD 3, errSticky := t.errSticky && !v.getLsbD 4 }

/-- IRQ_STATUS when a command completes without error (R535). -/
def irqComplete (q : IrqStatus) : IrqStatus := { q with doneIrq := true }

/-- IRQ_STATUS when a command completes with an error (R535, R546). -/
def irqCompleteErr (q : IrqStatus) : IrqStatus := { q with doneIrq := true, errIrq := true }

/-- IRQ_STATUS after a write of `v` (10_state R38): writing a 1 clears a bit. -/
def irqClear (q : IrqStatus) (v : Word) : IrqStatus :=
  { doneIrq := q.doneIrq && !v.getLsbD 0, errIrq := q.errIrq && !v.getLsbD 1 }

/-- CTRL after a write of `v` without SRST (10_state R36): the reserved bits are ignored. -/
def ctrlWrite (v : Word) : Ctrl := { ieDone := v.getLsbD 0, ieErr := v.getLsbD 1 }

/-- A flag at a bit of a register word. -/
def flagAt (b : Bool) (k : Nat) : Word := if b then BitVec.ofNat 64 (2 ^ k) else 0

/-- STATUS as it reads (10_state R34). -/
def statusWord (t : Status) : Word :=
  flagAt t.busy 0 ||| flagAt t.done 1 ||| flagAt t.err 2 ||| flagAt t.ovr 3 ||| flagAt t.errSticky 4 |||
  (t.errCode.setWidth 64 <<< 8) ||| (t.lastOpc.setWidth 64 <<< 16)

/-- CTRL as it reads (10_state R36). -/
def ctrlWord (c : Ctrl) : Word := flagAt c.ieDone 0 ||| flagAt c.ieErr 1

/-- IRQ_STATUS as it reads (10_state R38). -/
def irqWord (q : IrqStatus) : Word := flagAt q.doneIrq 0 ||| flagAt q.errIrq 1

/-- The interrupt output `irq` (60_exceptions R545). -/
def irqLine (s : State) : Bool := (s.irq.doneIrq && s.ctrl.ieDone) || (s.irq.errIrq && s.ctrl.ieErr)

/-- Code of the delta encoder's state (10_state R47). -/
def deStateCode : DeState → Nat
  | .uninit => 0
  | .idle => 1
  | .buffering => 2
  | .finished => 3

/-- Code of the delta decoder's state (10_state R48). -/
def ddStateCode : DdState → Nat
  | .uninit => 0
  | .ready => 1
  | .poisoned => 7

/-- Code of a UNINIT / READY state (10_state R49, R50, R51, R53). -/
def unitStateCode : UnitState → Nat
  | .uninit => 0
  | .ready => 1

/-- Code of the Elias-Fano encoder's state (10_state R52). -/
def efeStateCode : EfeState → Nat
  | .uninit => 0
  | .encoding => 1
  | .finished => 3

/-- Code of a direction (10_state R53). -/
def directionCode : Direction → Nat
  | .forward => 0
  | .backward => 1

/-- A state register: the state code in bits [2:0], a flag in bit 8, other bits 0 (10_state R47 to R53). -/
def stateWord (code : Nat) (flag : Bool) : Word := u64 code ||| flagAt flag 8

end Sys2Proof.Machine
end

