-- ==== Sys2Proof/Machine/Ops.lean ====
section
/-! DEFINITION. The named operations the commands share: sparse data by key, the data memory (spec/20_memory.md R100
to R106), drawing free values (spec/93_implementation_defined.md, `any value`), and the acceptance and completion of a
command, which is also how this hardware takes an error (spec/60_exceptions.md R530 to R537: there is no trap and no
return from one). -/

namespace Sys2Proof.Machine

/-! ## Sparse data by key: non-zero values, keys rising -/

/-- The value under a key; 0 where the key is not listed. -/
def cellGet {w : Nat} : List (Nat × BitVec w) → Nat → BitVec w
  | [], _ => 0
  | (a, b) :: t, k => if a = k then b else cellGet t k

/-- Writing the value under a key; writing 0 removes the entry. -/
def cellPut {w : Nat} : List (Nat × BitVec w) → Nat → BitVec w → List (Nat × BitVec w)
  | [], k, v => if v = 0 then [] else [(k, v)]
  | (a, b) :: t, k, v =>
    if k < a then (if v = 0 then (a, b) :: t else (k, v) :: (a, b) :: t)
    else if k = a then (if v = 0 then t else (k, v) :: t)
    else (a, b) :: cellPut t k v

/-- The entries with keys below `n`. -/
def cellBelow {w : Nat} (m : List (Nat × BitVec w)) (n : Nat) : List (Nat × BitVec w) :=
  m.filter (fun c => c.1 < n)

/-! ## The data memory (20_memory R100 to R106) -/

/-- The byte at an address. -/
def readByte (m : Memory) (a : Nat) : Byte := cellGet m a

/-- The memory with one byte written. -/
def writeByte (m : Memory) (a : Nat) (b : Byte) : Memory := cellPut m a b

/-- `MemRead(addr, n)` (00_scope R12): n bytes as one unsigned integer, the byte at `a` most significant. -/
def memRead (m : Memory) (a : Nat) : Nat → Nat
  | 0 => 0
  | n + 1 => memRead m a n * 256 + (readByte m (a + n)).toNat

/-- `MemWrite(addr, n, v)` (00_scope R12): v reduced to n bytes, the most significant at `a`. -/
def memWrite (m : Memory) (a : Nat) : Nat → Nat → Memory
  | 0, _ => m
  | n + 1, v => writeByte (memWrite m a n (v / 256)) (a + n) (BitVec.ofNat 8 v)

/-- The 64-bit element at an address (20_memory R102). -/
def readWord (m : Memory) (a : Nat) : Word := BitVec.ofNat 64 (memRead m a 8)

/-- The memory with one 64-bit element written (20_memory R102). -/
def writeWord (m : Memory) (a : Nat) (v : Word) : Memory := memWrite m a 8 v.toNat

/-- The `n` 64-bit elements from an address on. -/
def readWords (m : Memory) (a n : Nat) : List Word := (List.range n).map (fun k => readWord m (a + 8 * k))

/-- The memory with 64-bit elements written from an address on, in rising order. -/
def writeWords (m : Memory) (a : Nat) : List Word → Memory
  | [] => m
  | v :: t => writeWords (writeWord m a v) (a + 8) t

/-- The memory with bytes written from an address on, in rising order. -/
def writeBytes (m : Memory) (a : Nat) : List Byte → Memory
  | [] => m
  | b :: t => writeBytes (writeByte m a b) (a + 1) t

/-- The memory with `n` bytes from an address on set to 0. -/
def zeroBytes (m : Memory) (a n : Nat) : Memory := memWrite m a n 0

/-! ## Free values (log 4) -/

/-- The k-th free value from the next one on. -/
def State.free (s : State) (k : Nat) : Word := Config.freeWord (s.fresh + k)

/-- The state with `n` free values drawn. -/
def State.drew (s : State) (n : Nat) : State := { s with fresh := s.fresh + n }

/-- The memory whose `n` bytes from `a` on are the free bytes from the k-th on. -/
def havocBytes (m : Memory) (k a : Nat) : Nat → Memory
  | 0 => m
  | n + 1 => writeByte (havocBytes m k a n) (a + n) (Config.freeByte (k + n))

/-- The state whose `n` bytes of data memory from `a` on hold free values. -/
def State.havoc (s : State) (a n : Nat) : State :=
  { s with mem := havocBytes s.mem s.fresh a n, fresh := s.fresh + n }

/-- The state in which every listed range (start, length) of the data memory holds free values. -/
def State.havocRanges (s : State) : List (Nat × Nat) → State
  | [] => s
  | r :: t => (s.havoc r.1 r.2).havocRanges t

/-- Two byte ranges (start, length) share a byte. -/
def rangesMeet (x y : Nat × Nat) : Bool :=
  decide (0 < x.2) && decide (0 < y.2) && decide (x.1 < y.1 + y.2) && decide (y.1 < x.1 + x.2)

/-! ## Result registers (10_state R41) -/

/-- `RES[0] <- v` (00_scope R12). -/
def State.setRes0 (s : State) (v : Word) : State := { s with res := { s.res with r0 := v } }

/-- `RES[1] <- v` (00_scope R12). -/
def State.setRes1 (s : State) (v : Word) : State := { s with res := { s.res with r1 := v } }

/-- `RES[2] <- v` (00_scope R12). -/
def State.setRes2 (s : State) (v : Word) : State := { s with res := { s.res with r2 := v } }

/-- `RES[3] <- v` (00_scope R12). -/
def State.setRes3 (s : State) (v : Word) : State := { s with res := { s.res with r3 := v } }

/-! ## Checks, acceptance and completion (60_exceptions R531 to R537) -/

/-- An error a command raises: its kind and the value for ERRINFO (00_scope R12 `raise Err(code, info)`). -/
abbrev Err := ErrCode × Word

/-- What a check of a command finds: `none`, or the error it raises. Checks are joined by `Option.or`, the first error
found being the one reported (60_exceptions R534). -/
abbrev Check := Option Err

/-- The check that `p` holds, else the error `e` with `info`. -/
def require (p : Prop) [Decidable p] (e : ErrCode) (info : Word) : Check := if p then none else some (e, info)

/-- Acceptance of a command word (60_exceptions R536): the engine holds it and STATUS says so. -/
def State.accept (s : State) (c : Word) : State := { s with status := statusAccept s.status c, cmd := c }

/-- Completion without error (60_exceptions R535); ERRINFO keeps its value. -/
def State.complete (s : State) : State :=
  { s with status := statusComplete s.status, irq := irqComplete s.irq }

/-- Completion with an error (60_exceptions R535, R537): the error is reported in STATUS, IRQ_STATUS and ERRINFO. -/
def State.completeErr (s : State) (e : ErrCode) (info : Word) : State :=
  { s with status := statusCompleteErr s.status e, irq := irqCompleteErr s.irq, errInfo := info }

/-- The outcome of a command whose checks are all made before its first effect (60_exceptions R531, R532): an error
leaves everything but the completion as it was. -/
def State.conclude (s : State) (c : Check) (effect : Unit → State) : Host.Outcome State Fault Refusal :=
  match c with
  | some e => .next (s.completeErr e.1 e.2)
  | none => .next (effect ()).complete

end Sys2Proof.Machine
end

