-- ==== Sys2Proof/Machine/Operands.lean ====
section
/-! DEFINITION. Every operand form of the commands (spec/30_encoding.md R140, R141): the operand registers read as
unsigned integers, the bit-width and format operands with their checks, and the checks of array operands
(spec/40_bitpack.md R202, spec/20_memory.md R104, R105), of block and page sizes (spec/42_delta_encoder.md R261) and
of the byte streams (spec/20_memory.md R112). -/

namespace Sys2Proof.Machine

/-- `SB_WIDTHS`, the widths of PACKED_SINGLE_BLOCK, ascending (30_encoding R154). -/
def sbWidths : List Nat := [1, 2, 3, 4, 5, 6, 7, 8, 9, 10, 12, 16, 21, 32]

/-- `CheckWidth(w, f)` (40_bitpack R202). -/
def checkWidth (w : Nat) (f : Format) : Check :=
  match f with
  | .packed => require (1 ≤ w ∧ w ≤ 64) .invalidBitWidth (u64 w)
  | .singleBlock => require (w ∈ sbWidths) .invalidBitWidth (u64 w)

/-- The width check of the commands that carry a width and no format: 1 to 64 (41 R241, 45 R383, R392). -/
def checkBpv (w : Nat) : Check := require (1 ≤ w ∧ w ≤ 64) .invalidBitWidth (u64 w)

/-- `CheckArray64(a, n)` (40_bitpack R202): n 64-bit elements at byte address a. -/
def checkArray64 (p : Params) (a n : Nat) : Check :=
  (require (a % 8 = 0) .alignmentFault (u64 a)).or
    (require (a + 8 * n ≤ p.memBytes) .accessFault (u64 (max a p.memBytes)))

/-- `CheckBytes(a, n)` (40_bitpack R202): n bytes at a. -/
def checkBytes (p : Params) (a n : Nat) : Check :=
  require (a + n ≤ p.memBytes) .accessFault (u64 (max a p.memBytes))

/-- A legal block or page size: a power of two from `MIN_BLOCK` to `MAX_BLOCK` (42 R261, 44 R340). -/
abbrev legalBlockSize (b : Nat) : Prop := isPow2 b = true ∧ Config.minBlock ≤ b ∧ b ≤ Config.maxBlock

/-- The check of a block or page size operand (42 R261). -/
def checkBlockSize (b : Word) : Check := require (legalBlockSize b.toNat) .invalidArgument b

/-- The input stream's registers fit: `IN_PTR <= IN_END <= MEM_BYTES` (20_memory R112). -/
def checkIn (s : State) : Check :=
  require (s.inPtr.toNat ≤ s.inEnd.toNat ∧ s.inEnd.toNat ≤ s.cfg.memBytes) .accessFault s.inEnd

/-- The output stream's registers fit: `OUT_PTR <= OUT_END <= MEM_BYTES` (20_memory R112). -/
def checkOut (s : State) : Check :=
  require (s.outPtr.toNat ≤ s.outEnd.toNat ∧ s.outEnd.toNat ≤ s.cfg.memBytes) .accessFault s.outEnd

/-- Block geometry (30_encoding R152, R154). -/
structure Geometry where
  /-- longBlockCount. -/
  lbc : Nat
  /-- longValueCount. -/
  lvc : Nat
  /-- byteBlockCount. -/
  bbc : Nat
  /-- byteValueCount. -/
  bvc : Nat
deriving DecidableEq, Repr

/-- `Geom(w, f)` (30_encoding R152 for PACKED, R154 for PACKED_SINGLE_BLOCK). -/
def geom (w : Nat) (f : Format) : Geometry :=
  match f with
  | .packed => ⟨w / Nat.gcd w 64, 64 / Nat.gcd w 64, w / Nat.gcd w 8, 8 / Nat.gcd w 8⟩
  | .singleBlock => ⟨1, 64 / w, 8, 64 / w⟩

end Sys2Proof.Machine
end

