-- ==== Sys2Proof/Machine/BitPack.lean ====
section
/-! DEFINITION. The bit packer (spec/40_bitpack.md R200 to R206) over the packed layouts of spec/30_encoding.md R150 to
R155. An array of words or bytes in the data memory is handled as one number, its first byte most significant
(spec/20_memory.md R102, R103): the PACKED stream of a long-block array and of a byte-block array are then the same
number. -/

namespace Sys2Proof.Machine

/-- The values of one PACKED_SINGLE_BLOCK word (30_encoding R153, R155). -/
def singleBlockValues (w word : Nat) : List Nat :=
  (List.range (64 / w)).map (fun j => word / 2 ^ (j * w) % 2 ^ w)

/-- The word that holds `vs` as PACKED_SINGLE_BLOCK (30_encoding R153): value j at bits [j*w + w - 1 : j*w]. -/
def singleBlockWord (w : Nat) (vs : List Nat) : Nat :=
  ((List.range vs.length).map (fun j => vs.getD j 0 % 2 ^ w * 2 ^ (j * w))).sum

/-- The first `cnt` values of a packed array of `nbytes` bytes held as one number (30_encoding R150, R151, R153,
R155). -/
def unpackArray (f : Format) (w cnt nbytes arr : Nat) : List Nat :=
  match f with
  | .packed => splitFields w cnt (8 * nbytes) arr
  | .singleBlock => ((splitFields 64 (nbytes / 8) (8 * nbytes) arr).flatMap (singleBlockValues w)).take cnt

/-- The packed array of `vs` as one number (30_encoding R150, R151, R153); the values are masked to `w` bits (40 R205). -/
def packArray (f : Format) (w : Nat) (vs : List Nat) : Nat :=
  match f with
  | .packed => joinFields w vs
  | .singleBlock =>
    let k := 64 / w
    joinFields 64 ((List.range (vs.length / k)).map (fun b => singleBlockWord w ((vs.drop (b * k)).take k)))

/-- `BP_GEOM` (40_bitpack R201). -/
def execBpGeom (w : Nat) (f : Format) (s : State) : Host.Outcome State Fault Refusal :=
  s.conclude (checkWidth w f) (fun _ =>
    let g := geom w f
    (((s.setRes0 (u64 g.lbc)).setRes1 (u64 g.lvc)).setRes2 (u64 g.bbc)).setRes3 (u64 g.bvc))

/-- The arrays of a BP_DEC or BP_ENC command: where the source and the destination start, how many bytes they have,
and how many values are moved (40_bitpack R203 to R206). -/
structure BpArrays where
  src : Nat
  srcBytes : Nat
  dst : Nat
  dstBytes : Nat
  values : Nat
deriving DecidableEq, Repr

/-- The arrays of `BP_DEC_LL` (R203). -/
def bpArraysDecLL (w : Nat) (f : Format) (s : State) : BpArrays :=
  let g := geom w f
  let it := s.args.a4.toNat
  { src := s.args.a0.toNat + 8 * s.args.a1.toNat, srcBytes := 8 * (it * g.lbc)
    dst := s.args.a2.toNat + 8 * s.args.a3.toNat, dstBytes := 8 * (it * g.lvc), values := it * g.lvc }

/-- The arrays of `BP_DEC_BL` (R204). -/
def bpArraysDecBL (w : Nat) (f : Format) (s : State) : BpArrays :=
  let g := geom w f
  let it := s.args.a4.toNat
  { src := s.args.a0.toNat + s.args.a1.toNat, srcBytes := it * g.bbc
    dst := s.args.a2.toNat + 8 * s.args.a3.toNat, dstBytes := 8 * (it * g.bvc), values := it * g.bvc }

/-- The arrays of `BP_ENC_LL` (R205). -/
def bpArraysEncLL (w : Nat) (f : Format) (s : State) : BpArrays :=
  let g := geom w f
  let it := s.args.a4.toNat
  { src := s.args.a0.toNat + 8 * s.args.a1.toNat, srcBytes := 8 * (it * g.lvc)
    dst := s.args.a2.toNat + 8 * s.args.a3.toNat, dstBytes := 8 * (it * g.lbc), values := it * g.lvc }

/-- The arrays of `BP_ENC_LB` (R206). -/
def bpArraysEncLB (w : Nat) (f : Format) (s : State) : BpArrays :=
  let g := geom w f
  let it := s.args.a4.toNat
  { src := s.args.a0.toNat + 8 * s.args.a1.toNat, srcBytes := 8 * (it * g.bvc)
    dst := s.args.a2.toNat + s.args.a3.toNat, dstBytes := it * g.bbc, values := it * g.bvc }

/-- With 0 iterations no address is checked (R203 `it = 0`). -/
def unlessNoIterations (s : State) (c : Check) : Check := if s.args.a4 = 0 then none else c

/-- The checks of `BP_DEC_LL` (R203): the width, then the source, then the destination. -/
def bpCheckDecLL (w : Nat) (f : Format) (s : State) : Check :=
  let b := bpArraysDecLL w f s
  (checkWidth w f).or (unlessNoIterations s
    ((checkArray64 s.cfg b.src (b.srcBytes / 8)).or (checkArray64 s.cfg b.dst (b.dstBytes / 8))))

/-- The checks of `BP_DEC_BL` (R204); the byte source has no alignment. -/
def bpCheckDecBL (w : Nat) (f : Format) (s : State) : Check :=
  let b := bpArraysDecBL w f s
  (checkWidth w f).or (unlessNoIterations s
    ((checkBytes s.cfg b.src b.srcBytes).or (checkArray64 s.cfg b.dst (b.dstBytes / 8))))

/-- The checks of `BP_ENC_LL` (R205). -/
def bpCheckEncLL (w : Nat) (f : Format) (s : State) : Check :=
  let b := bpArraysEncLL w f s
  (checkWidth w f).or (unlessNoIterations s
    ((checkArray64 s.cfg b.src (b.srcBytes / 8)).or (checkArray64 s.cfg b.dst (b.dstBytes / 8))))

/-- The checks of `BP_ENC_LB` (R206); the byte destination has no alignment. -/
def bpCheckEncLB (w : Nat) (f : Format) (s : State) : Check :=
  let b := bpArraysEncLB w f s
  (checkWidth w f).or (unlessNoIterations s
    ((checkArray64 s.cfg b.src (b.srcBytes / 8)).or (checkBytes s.cfg b.dst b.dstBytes)))

/-- The source and the destination share a byte (93_implementation_defined; log 10). -/
def bpOverlap (b : BpArrays) : Bool := rangesMeet (b.src, b.srcBytes) (b.dst, b.dstBytes)

/-- The values a BP_DEC command writes (R203, R204). -/
def bpDecoded (w : Nat) (f : Format) (m : Memory) (b : BpArrays) : List Word :=
  (unpackArray f w b.values b.srcBytes (memRead m b.src b.srcBytes)).map u64

/-- The packed array a BP_ENC command writes (R205, R206), as one number. -/
def bpEncoded (w : Nat) (f : Format) (m : Memory) (b : BpArrays) : Nat :=
  packArray f w ((readWords m b.src b.values).map BitVec.toNat)

/-- The effect of a BP_DEC command whose checks passed (R203, R204); overlapping arrays leave the destination's bytes
unspecified (log 10). -/
def bpDecode (w : Nat) (f : Format) (b : BpArrays) (s : State) : State :=
  if bpOverlap b then s.havoc b.dst b.dstBytes
  else { s with mem := writeWords s.mem b.dst (bpDecoded w f s.mem b) }

/-- The effect of a BP_ENC command whose checks passed (R205, R206); overlapping arrays leave the destination's bytes
unspecified (log 10). -/
def bpEncode (w : Nat) (f : Format) (b : BpArrays) (s : State) : State :=
  if bpOverlap b then s.havoc b.dst b.dstBytes
  else { s with mem := memWrite s.mem b.dst b.dstBytes (bpEncoded w f s.mem b) }

/-- `BP_DEC_LL` (R203): long blocks to values. -/
def execBpDecLL (w : Nat) (f : Format) (s : State) : Host.Outcome State Fault Refusal :=
  s.conclude (bpCheckDecLL w f s) (fun _ => bpDecode w f (bpArraysDecLL w f s) s)

/-- `BP_DEC_BL` (R204): byte blocks to values. -/
def execBpDecBL (w : Nat) (f : Format) (s : State) : Host.Outcome State Fault Refusal :=
  s.conclude (bpCheckDecBL w f s) (fun _ => bpDecode w f (bpArraysDecBL w f s) s)

/-- `BP_ENC_LL` (R205): values to long blocks. -/
def execBpEncLL (w : Nat) (f : Format) (s : State) : Host.Outcome State Fault Refusal :=
  s.conclude (bpCheckEncLL w f s) (fun _ => bpEncode w f (bpArraysEncLL w f s) s)

/-- `BP_ENC_LB` (R206): values to byte blocks. -/
def execBpEncLB (w : Nat) (f : Format) (s : State) : Host.Outcome State Fault Refusal :=
  s.conclude (bpCheckEncLB w f s) (fun _ => bpEncode w f (bpArraysEncLB w f s) s)

end Sys2Proof.Machine
end

