-- ==== Sys2Proof/Machine/Float.lean ====
section
/-! DEFINITION. The IEEE 754 binary32 primitives of the monotonic variants (spec/00_scope.md R14,
spec/30_encoding.md R175, R176): round to nearest, ties to even, no flush of subnormals. A binary32 value is its
32-bit interchange pattern. -/

namespace Sys2Proof.Machine

/-- A binary32 value as its interchange pattern, `f32bits` of it (00_scope R14). -/
abbrev F32 := BitVec 32

/-- What a binary32 pattern stands for: the finite value is `(-1)^neg * mant * 2^exp`. -/
inductive F32Class where
  | nan
  | inf (neg : Bool)
  | finite (neg : Bool) (mant : Nat) (exp : Int)
deriving DecidableEq, Repr

/-- The class of a pattern; every pattern is accepted (30_encoding R175). -/
def classOfF32 (x : F32) : F32Class :=
  let neg := x.toNat / 2 ^ 31 == 1
  let e : Nat := x.toNat / 2 ^ 23 % 2 ^ 8
  let f : Nat := x.toNat % 2 ^ 23
  if e = 255 then (if f = 0 then .inf neg else .nan)
  else if e = 0 then .finite neg f (-149)
  else .finite neg (f + 2 ^ 23) ((e : Int) - 150)

/-- The integer nearest to `num / den`, ties to even (`den > 0`). -/
def roundHalfEven (num den : Nat) : Nat :=
  let q := num / den
  let r := num % den
  if 2 * r < den then q
  else if den < 2 * r then q + 1
  else if q % 2 = 0 then q else q + 1

/-- `num * 2^k / den` as a fraction of naturals, for an integer `k`. -/
def scaleByPow2 (num den : Nat) (k : Int) : Nat × Nat :=
  if 0 ≤ k then (num * 2 ^ k.toNat, den) else (num, den * 2 ^ (-k).toNat)

/-- The exponent of the last place of the binary32 value nearest to `num / den` (both positive): 23 below that of
its leading bit, at least that of the subnormals. -/
def f32Quantum (num den : Nat) : Int :=
  let e : Int := (Nat.log2 num : Int) - (Nat.log2 den : Int)
  let s := scaleByPow2 num den (-e)
  let lead := if s.1 < s.2 then e - 1 else e
  max (lead - 23) (-149)

/-- The binary32 value nearest to the rational `(-1)^neg * num / den`, ties to even; an overflow gives an infinity
(00_scope R14). -/
def f32OfRat (neg : Bool) (num den : Nat) : F32 :=
  let sign := if neg then 2 ^ 31 else 0
  if num = 0 then BitVec.ofNat 32 sign
  else
    let q := f32Quantum num den
    let s := scaleByPow2 num den (-q)
    let bits := (q + 149).toNat * 2 ^ 23 + roundHalfEven s.1 s.2
    BitVec.ofNat 32 (sign + min bits 0x7F800000)

/-- `f32(x)` of an integer (00_scope R14); zero is +0.0. -/
def f32OfInt (x : Int) : F32 := f32OfRat (decide (x < 0)) x.natAbs 1

/-- The quiet NaN pattern the model uses; which one is never observed, since `R` of every NaN is 0 (30_encoding
R176; log 22). -/
def f32NaN : F32 := 0x7FC00000

/-- `(-1)^neg * mant * 2^exp / den` rounded to binary32. -/
def f32OfScaled (neg : Bool) (mant den : Nat) (exp : Int) : F32 :=
  let s := scaleByPow2 mant den exp
  f32OfRat neg s.1 s.2

/-- `f32mul(a, b)` (00_scope R14). -/
def f32Mul (a b : F32) : F32 :=
  match classOfF32 a, classOfF32 b with
  | .nan, _ => f32NaN
  | _, .nan => f32NaN
  | .inf na, .inf nb => if xor na nb then 0xFF800000 else 0x7F800000
  | .inf na, .finite nb mb _ => if mb = 0 then f32NaN else if xor na nb then 0xFF800000 else 0x7F800000
  | .finite na ma _, .inf nb => if ma = 0 then f32NaN else if xor na nb then 0xFF800000 else 0x7F800000
  | .finite na ma ea, .finite nb mb eb => f32OfScaled (xor na nb) (ma * mb) 1 (ea + eb)

/-- `f32div(a, b)` (00_scope R14). -/
def f32Div (a b : F32) : F32 :=
  match classOfF32 a, classOfF32 b with
  | .nan, _ => f32NaN
  | _, .nan => f32NaN
  | .inf _, .inf _ => f32NaN
  | .inf na, .finite nb _ _ => if xor na nb then 0xFF800000 else 0x7F800000
  | .finite na _ _, .inf nb => if xor na nb then 0x80000000 else 0
  | .finite na ma ea, .finite nb mb eb =>
    if mb = 0 then
      (if ma = 0 then f32NaN else if xor na nb then 0xFF800000 else 0x7F800000)
    else f32OfScaled (xor na nb) ma mb (ea - eb)

/-- `R(x)` (30_encoding R176): 0 for a NaN or an infinity, else the nearest integer, ties to even, reduced to 64
bits. -/
def f32Round (x : F32) : Word :=
  match classOfF32 x with
  | .nan => 0
  | .inf _ => 0
  | .finite neg mant exp =>
    let s := scaleByPow2 mant 1 exp
    let m := roundHalfEven s.1 s.2
    u64i (if neg then -(m : Int) else (m : Int))

/-- The monotonic prediction `Pred(avg, i) = R(f32mul(avg, f32(i)))` (30_encoding R176). -/
def pred (avg : F32) (i : Nat) : Word := f32Round (f32Mul avg (f32OfInt i))

/-- The average of a monotonic block whose first and last values are `first` and `last` and which holds `c` values:
+0.0 for one value, else `f32div(f32(s64(u64(last - first))), f32(c - 1))` (42_delta_encoder R269). -/
def monoAvg (first last : Word) (c : Nat) : F32 :=
  if c = 1 then 0 else f32Div (f32OfInt (last - first).toInt) (f32OfInt ((c : Int) - 1))

end Sys2Proof.Machine
end

