-- ==== Sys2Proof/Machine/Stream.lean ====
section
/-! DEFINITION. The delta block stream format (spec/30_encoding.md R157, R170 to R177), block encoding
(spec/42_delta_encoder.md R263, R268, R269), and the byte streams of the data memory (spec/20_memory.md R112). -/

namespace Sys2Proof.Machine

/-! ## Packed bytes, varint, residues -/

/-- `PackBytes(vals, w)` (30_encoding R157): the PACKED bitstream cut into bytes, the unused low bits of the last byte
0; empty for w = 0. -/
def packBytes (w : Nat) (vs : List Nat) : List Byte :=
  let len := vs.length * w
  let n := ceilDiv len 8
  bytesOf n (joinFields w vs * 2 ^ (8 * n - len))

/-- `UnpackBytes(bytes, w, c)` (30_encoding R157), the bytes held as one number of `n` bytes; c zeros for w = 0. -/
def unpackBytes (w c n bytes : Nat) : List Nat := splitFields w c (8 * n) bytes

/-- The groups of `BVL` (30_encoding R170) with `k` continuation groups still allowed. -/
def bvlGroups : Nat → Nat → List Byte
  | 0, v => [BitVec.ofNat 8 v]
  | k + 1, v => if v < 128 then [BitVec.ofNat 8 v] else BitVec.ofNat 8 (v % 128 + 128) :: bvlGroups k (v / 128)

/-- The block varint `BVL(v)` (30_encoding R170). -/
def bvl (v : Word) : List Byte := bvlGroups 8 v.toNat

/-- `bits = bitlen(max of the residues)` (30_encoding R177). -/
def residueWidth (res : List Word) : Nat := bitlen ((res.map BitVec.toNat).foldl max 0)

/-- The least value of a list read as two's complement, starting from `b` (42 R268 `min over i of s64(vals[i])`). -/
def signedMin (b : Word) : List Word → Word
  | [] => b
  | v :: t => signedMin (if v.toInt < b.toInt then v else b) t

/-- The residues of a plain block (42 R268). -/
def plainResidues (base : Word) (vs : List Word) : List Word := vs.map (fun v => zz (v - base))

/-- The residues of a monotonic block, the first of `vs` standing at position `i` (42 R269, 44 R342). -/
def monoResidues (base : Word) (avg : F32) (i : Nat) : List Word → List Word
  | [] => []
  | v :: t => zz (v - base - pred avg i) :: monoResidues base avg (i + 1) t

/-- The token byte (30_encoding R171): `(bits << 1) OR z`, z = 1 exactly when the baseline is zero. -/
def tokenByte (bits : Nat) (base : Word) : Byte := BitVec.ofNat 8 (2 * bits + if base = 0 then 1 else 0)

/-- The baseline varint, absent when the baseline is zero (30_encoding R172). -/
def baselineBytes (base : Word) : List Byte := if base = 0 then [] else bvl (zz base)

/-- `EncodePlain(vals)` (42 R268). -/
def encodePlain (vs : List Word) : List Byte :=
  let base := signedMin (vs.headD 0) vs
  let res := plainResidues base vs
  let bits := residueWidth res
  tokenByte bits base :: (baselineBytes base ++ packBytes bits (res.map BitVec.toNat))

/-- `EncodeMono(vals)` (42 R269). -/
def encodeMono (vs : List Word) : List Byte :=
  let base := vs.headD 0
  let avg := monoAvg base (vs.getLastD 0) vs.length
  let res := monoResidues base avg 0 vs
  let bits := residueWidth res
  tokenByte bits base :: (baselineBytes base ++ bytesOf 4 avg.toNat ++ packBytes bits (res.map BitVec.toNat))

/-- `EncodeBlock(vals)` (42 R263). -/
def encodeBlock (mono : Bool) (vs : List Word) : List Byte := if mono then encodeMono vs else encodePlain vs

/-- Reconstruction of a block's values, the first of `res` standing at position `i` (30_encoding R172, R173). -/
def reconstruct (mono : Bool) (base : Word) (avg : F32) (i : Nat) : List Word → List Word
  | [] => []
  | r :: t =>
    (if mono then base + pred avg i + unzz r else base + unzz r) :: reconstruct mono base avg (i + 1) t

/-! ## The byte streams (20_memory R112) -/

/-- `ReadByte()` at stream position `p` of a stream that ends at `fin`: the byte and the next position. -/
def streamByte (m : Memory) (fin p : Nat) : Except Err (Nat × Nat) :=
  if p = fin then .error (.prematureEndOfStream, u64 p) else .ok ((readByte m p).toNat, p + 1)

/-- `ReadBytes(n)`, the bytes as one number in front of `acc`, most significant first. -/
def streamBytes (m : Memory) (fin : Nat) : Nat → Nat → Nat → Except Err (Nat × Nat)
  | 0, acc, p => .ok (acc, p)
  | n + 1, acc, p =>
    match streamByte m fin p with
    | .error e => .error e
    | .ok (b, p') => streamBytes m fin n (acc * 256 + b) p'

/-- `SkipBytes(n)`: the next position. -/
def streamSkip (fin n p : Nat) : Except Err Nat :=
  if fin - p < n then .error (.prematureEndOfStream, u64 p) else .ok (p + n)

/-- The rest of `ReadBVL()` (30_encoding R170): `k` continuation groups still allowed, `sh` bits read into `acc`. -/
def streamBvlGroups (m : Memory) (fin : Nat) : Nat → Nat → Nat → Nat → Except Err (Nat × Nat)
  | 0, sh, acc, p =>
    match streamByte m fin p with
    | .error e => .error e
    | .ok (b, p') => .ok (acc + b * 2 ^ sh, p')
  | k + 1, sh, acc, p =>
    match streamByte m fin p with
    | .error e => .error e
    | .ok (b, p') =>
      if b < 128 then .ok (acc + b * 2 ^ sh, p')
      else streamBvlGroups m fin k (sh + 7) (acc + b % 128 * 2 ^ sh) p'

/-- `ReadBVL()` (30_encoding R170). -/
def streamBvl (m : Memory) (fin p : Nat) : Except Err (Word × Nat) :=
  match streamBvlGroups m fin 8 0 0 p with
  | .error e => .error e
  | .ok (v, p') => .ok (u64 v, p')

end Sys2Proof.Machine
end

