-- ==== Sys2Proof/Machine/DeltaDecoder.lean ====
section
/-! DEFINITION. The block delta decoder commands (spec/43_delta_decoder.md R300 to R307). -/

namespace Sys2Proof.Machine

/-- The context after `DD_INIT` / `DD_INIT_MONO` (R304, R305). -/
def ddInitContext (mono : Bool) (b n : Word) : DeltaDecoder :=
  { state := .ready, mono := mono, blockSize := b, count := n, ord := 0, off := b,
    buf := List.replicate b.toNat 0 }

/-- `DD_INIT` (R304). -/
def execDdInit (s : State) : Host.Outcome State Fault Refusal :=
  s.conclude (checkBlockSize s.args.a0) (fun _ => { s with dd := ddInitContext false s.args.a0 s.args.a1 })

/-- `DD_INIT_MONO` (R305). -/
def execDdInitMono (s : State) : Host.Outcome State Fault Refusal :=
  s.conclude (checkBlockSize s.args.a0) (fun _ => { s with dd := ddInitContext true s.args.a0 s.args.a1 })

/-- `CheckReader()` (43 section 2). -/
def checkReader (s : State) : Check :=
  require (s.dd.state = .ready) .notInitialized (u64 (ddStateCode s.dd.state))

/-- The token (30_encoding R171): its residue width, which must not exceed 64 (43 R302, R303), and its flag. -/
def streamToken (m : Memory) (fin p : Nat) : Except Err (Nat × Nat × Nat) :=
  match streamByte m fin p with
  | .error e => .error e
  | .ok (token, p') =>
    if 64 < token / 2 then .error (.invalidBitWidth, u64 (token / 2)) else .ok (token / 2, token % 2, p')

/-- The baseline after a token with flag `z` (R302): 0 when the flag is set, else the decoded varint. -/
def streamBaseline (m : Memory) (fin z p : Nat) : Except Err (Word × Nat) :=
  if z = 1 then .ok (0, p)
  else match streamBvl m fin p with
    | .error e => .error e
    | .ok (v, p') => .ok (unzz v, p')

/-- `RefillBlock()` (R302): the `c` values of the block that starts at stream position `p`, and the position after
it. -/
def refillBlock (mono : Bool) (c : Nat) (m : Memory) (fin p : Nat) : Except Err (List Word × Nat) :=
  match streamToken m fin p with
  | .error e => .error e
  | .ok (bits, z, p1) =>
    match streamBaseline m fin z p1 with
    | .error e => .error e
    | .ok (base, p2) =>
      match streamBytes m fin (if mono then 4 else 0) 0 p2 with
      | .error e => .error e
      | .ok (avg, p3) =>
        let n := ceilDiv (c * bits) 8
        match streamBytes m fin n 0 p3 with
        | .error e => .error e
        | .ok (bytes, p4) =>
          .ok (reconstruct mono base (BitVec.ofNat 32 avg) 0 ((unpackBytes bits c n bytes).map u64), p4)

/-- `SkipBlock()` (R303): the stream position after a whole block of `b` values that starts at `p`. -/
def skipBlock (mono : Bool) (b : Nat) (m : Memory) (fin p : Nat) : Except Err Nat :=
  match streamToken m fin p with
  | .error e => .error e
  | .ok (bits, z, p1) =>
    match streamBaseline m fin z p1 with
    | .error e => .error e
    | .ok (_, p2) =>
      match streamSkip fin (if mono then 4 else 0) p2 with
      | .error e => .error e
      | .ok p3 => streamSkip fin (ceilDiv (b * bits) 8) p3

/-- `k` whole blocks skipped in a row (R307 step 2). -/
def skipBlocks (mono : Bool) (b : Nat) (m : Memory) (fin : Nat) : Nat → Nat → Except Err Nat
  | 0, p => .ok p
  | k + 1, p =>
    match skipBlock mono b m fin p with
    | .error e => .error e
    | .ok p' => skipBlocks mono b m fin k p'

/-- The decoder with a block decoded into its buffer from stream position `p`, `consumed` values of the stream
having been consumed; `dd.off` is 0 (R302). -/
def ddRefill (d : DeltaDecoder) (consumed : Nat) (m : Memory) (fin p : Nat) : Except Err (DeltaDecoder × Nat) :=
  match refillBlock d.mono (min d.blockSize.toNat (d.count.toNat - consumed)) m fin p with
  | .error e => .error e
  | .ok (vs, p') => .ok ({ d with buf := vs ++ d.buf.drop vs.length, off := 0 }, p')

/-- The poisoned decoder after a fatal stream error (R301): IN_PTR, ord, off and the buffer hold free values
(log 13). -/
def State.poison (s : State) : State :=
  let b := s.dd.blockSize.toNat
  { (s.drew (3 + b)) with
    inPtr := s.free 0
    dd := { s.dd with state := .poisoned, ord := s.free 1, off := s.free 2,
                      buf := (List.range b).map (fun k => s.free (3 + k)) } }

/-- The outcome of a command that reads the input stream: an error of its checks leaves everything but the completion
as it was, an error of the stream is fatal (60_exceptions R531, R301). -/
def State.concludeStream (s : State) (c : Check) (effect : Unit → Except Err State) :
    Host.Outcome State Fault Refusal :=
  match c with
  | some e => .next (s.completeErr e.1 e.2)
  | none =>
    match effect () with
    | .error e => .next (s.poison.completeErr e.1 e.2)
    | .ok t => .next t.complete

/-- No block is buffered (10_state R48). -/
abbrev ddEmpty (d : DeltaDecoder) : Prop := d.off = d.blockSize

/-- The decoder and stream position a `DD_NEXT` returns a value from: a block is read when none is buffered (R306). -/
def ddFetch (s : State) : Except Err (DeltaDecoder × Nat) :=
  if ddEmpty s.dd then ddRefill s.dd s.dd.ord.toNat s.mem s.inEnd.toNat s.inPtr.toNat
  else .ok (s.dd, s.inPtr.toNat)

/-- The effect of `DD_NEXT` (R306). -/
def ddNextEffect (s : State) : Except Err State :=
  match ddFetch s with
  | .error e => .error e
  | .ok (d, p) =>
    .ok ((({ s with inPtr := u64 p, dd := { d with off := d.off + 1, ord := d.ord + 1 } }).setRes0
      (d.buf.getD d.off.toNat 0)).setRes1 (d.ord + 1))

/-- The checks of `DD_NEXT` (R306). -/
def ddNextCheck (s : State) : Check :=
  ((checkReader s).or (require (s.dd.ord ≠ s.dd.count) .indexOutOfRange s.dd.ord)).or (checkIn s)

/-- `DD_NEXT` (R306). -/
def execDdNext (s : State) : Host.Outcome State Fault Refusal :=
  s.concludeStream (ddNextCheck s) (fun _ => ddNextEffect s)

/-- The checks of `DD_SKIP` (R307); a skip of 0 does not check the stream registers. -/
def ddSkipCheck (s : State) : Check :=
  ((checkReader s).or
    (require (s.dd.ord.toNat + s.args.a0.toNat ≤ s.dd.count.toNat) .indexOutOfRange s.args.a0)).or
    (if s.args.a0 = 0 then none else checkIn s)

/-- Steps 1 to 3 of `DD_SKIP` (R307) for a count `n` that is not 0: the values still buffered, whole blocks, the
remainder. The decoder and the stream position after it. -/
def ddSkipTo (d : DeltaDecoder) (n : Nat) (m : Memory) (fin p : Nat) : Except Err (DeltaDecoder × Nat) :=
  let b := d.blockSize.toNat
  let k := min n (b - d.off.toNat)
  let rest := n - k
  let blocks := rest / b
  let rem := rest % b
  let ord1 := d.ord.toNat + k + blocks * b
  let d1 := { d with off := u64 (d.off.toNat + k), ord := u64 ord1 }
  match skipBlocks d.mono b m fin blocks p with
  | .error e => .error e
  | .ok p1 =>
    if rem = 0 then .ok (d1, p1)
    else
      match ddRefill d1 ord1 m fin p1 with
      | .error e => .error e
      | .ok (d2, p2) => .ok ({ d2 with off := u64 rem, ord := u64 (ord1 + rem) }, p2)

/-- The effect of `DD_SKIP` (R307). -/
def ddSkipEffect (s : State) : Except Err State :=
  if s.args.a0 = 0 then .ok (s.setRes1 s.dd.ord)
  else
    match ddSkipTo s.dd s.args.a0.toNat s.mem s.inEnd.toNat s.inPtr.toNat with
    | .error e => .error e
    | .ok (d, p) => .ok (({ s with inPtr := u64 p, dd := d }).setRes1 d.ord)

/-- `DD_SKIP` (R307). -/
def execDdSkip (s : State) : Host.Outcome State Fault Refusal :=
  s.concludeStream (ddSkipCheck s) (fun _ => ddSkipEffect s)

end Sys2Proof.Machine
end

