-- ==== Sys2Proof/Machine/DeltaEncoder.lean ====
section
/-! DEFINITION. The block delta encoder commands (spec/42_delta_encoder.md R260 to R269). -/

namespace Sys2Proof.Machine

/-- The context after `DE_INIT` / `DE_INIT_MONO` (R264, R265). -/
def deInitContext (mono : Bool) (b : Word) : DeltaEncoder :=
  { state := .idle, mono := mono, blockSize := b, pending := 0, ord := 0, buf := List.replicate b.toNat 0 }

/-- `DE_INIT` (R264). -/
def execDeInit (s : State) : Host.Outcome State Fault Refusal :=
  s.conclude (checkBlockSize s.args.a0) (fun _ => { s with de := deInitContext false s.args.a0 })

/-- `DE_INIT_MONO` (R265). -/
def execDeInitMono (s : State) : Host.Outcome State Fault Refusal :=
  s.conclude (checkBlockSize s.args.a0) (fun _ => { s with de := deInitContext true s.args.a0 })

/-- `CheckWriter()` (42 section 3). -/
def checkWriter (s : State) : Check :=
  ((require (s.de.state ≠ .uninit) .notInitialized 0).or
    (require (s.de.state ≠ .finished) .alreadyFinished 0)).or (checkOut s)

/-- `WriteBytes` finds room for `bs` in [OUT_PTR, OUT_END) (20_memory R112). -/
def checkRoom (s : State) (bs : List Byte) : Check :=
  require (bs.length ≤ s.outEnd.toNat - s.outPtr.toNat) .outputOverflow (u64 bs.length)

/-- `WriteBytes(bs)` where there is room (20_memory R112). -/
def State.emit (s : State) (bs : List Byte) : State :=
  { s with mem := writeBytes s.mem s.outPtr.toNat bs, outPtr := u64 (s.outPtr.toNat + bs.length) }

/-- The buffered values, the first p of `de.buf` (10_state R47). -/
def deBuffered (d : DeltaEncoder) : List Word := d.buf.take d.pending.toNat

/-- This add fills the block: p = B - 1 (R266). -/
abbrev deFills (d : DeltaEncoder) : Prop := d.pending.toNat + 1 = d.blockSize.toNat

/-- The bytes a `DE_ADD` of `v` writes: the block it fills, else none (R266). -/
def deAddBytes (d : DeltaEncoder) (v : Word) : List Byte :=
  if deFills d then encodeBlock d.mono (deBuffered d ++ [v]) else []

/-- The context after a `DE_ADD` of `v` (R266). -/
def deAddContext (d : DeltaEncoder) (v : Word) : DeltaEncoder :=
  if deFills d then { d with pending := 0, state := .idle, ord := d.ord + 1 }
  else { d with buf := d.buf.set d.pending.toNat v, pending := d.pending + 1, state := .buffering, ord := d.ord + 1 }

/-- `DE_ADD` (R266). -/
def execDeAdd (s : State) : Host.Outcome State Fault Refusal :=
  let bs := deAddBytes s.de s.args.a0
  s.conclude ((checkWriter s).or (checkRoom s bs)) (fun _ =>
    ({ s.emit bs with de := deAddContext s.de s.args.a0 }).setRes0 (s.de.ord + 1))

/-- The bytes a `DE_FINISH` writes: the partial block, if any value is buffered (R267). -/
def deFinishBytes (d : DeltaEncoder) : List Byte :=
  if d.pending = 0 then [] else encodeBlock d.mono (deBuffered d)

/-- `DE_FINISH` (R267). -/
def execDeFinish (s : State) : Host.Outcome State Fault Refusal :=
  let bs := deFinishBytes s.de
  s.conclude ((checkWriter s).or (checkRoom s bs)) (fun _ =>
    ({ s.emit bs with de := { s.de with pending := 0, state := .finished } }).setRes0 s.de.ord)

end Sys2Proof.Machine
end

