-- ==== Sys2Proof/Machine/DynamicArray.lean ====
section
/-! DEFINITION. The dynamic width arrays: the growable writer (spec/45_dynamic_array.md R380 to R386) and the paged
array (R390 to R397). -/

namespace Sys2Proof.Machine

/-! ## Growable writer -/

/-- Words a sequence of `size` values of width `w` occupies (R380, R390). -/
def seqWords (size w : Nat) : Nat := ceilDiv (size * w) 64

/-- `GW_STORE_USED` (10_state R50). -/
def gwUsed (g : GrowableWriter) : Nat := seqWords g.size.toNat g.bpv.toNat

/-- The capacity check of a growable writer of `size` values of width `w` (R381, R383, R386). -/
def checkGwCapacity (p : Params) (size w : Nat) : Check :=
  require (seqWords size w ≤ p.gwStoreWords) .capacityExceeded (u64 (seqWords size w))

/-- The admission check (45 section 1). -/
def checkGwReady (s : State) : Check := require (s.gw.state = .ready) .notInitialized 0

/-- The check of an index operand (R384, R385). -/
def checkGwIndex (s : State) : Check :=
  require (s.args.a0.toNat < s.gw.size.toNat) .indexOutOfRange s.args.a0

/-- `GW_INIT` (R383). -/
def execGwInit (w : Nat) (s : State) : Host.Outcome State Fault Refusal :=
  s.conclude ((checkBpv w).or (checkGwCapacity s.cfg s.args.a0.toNat w)) (fun _ =>
    { s with gw := { state := .ready, size := s.args.a0, bpv := u64 w, val := [] } })

/-- `GW_GET` (R384). -/
def execGwGet (s : State) : Host.Outcome State Fault Refusal :=
  s.conclude ((checkGwReady s).or (checkGwIndex s)) (fun _ => s.setRes0 (cellGet s.gw.val s.args.a0.toNat))

/-- The width a sequence of width `w` has after the value `v` is stored (R381, R385): it widens to `bitlen(v)` when v
does not fit, and never narrows. -/
def widthAfter (w v : Nat) : Nat := if maxValue w < v then bitlen v else w

/-- The checks of `GW_SET` (R385): the capacity is checked only when the value widens the array. -/
def gwSetCheck (s : State) : Check :=
  ((checkGwReady s).or (checkGwIndex s)).or
    (if maxValue s.gw.bpv.toNat < s.args.a1.toNat then
      checkGwCapacity s.cfg s.gw.size.toNat (bitlen s.args.a1.toNat) else none)

/-- `GW_SET` (R385). -/
def execGwSet (s : State) : Host.Outcome State Fault Refusal :=
  s.conclude (gwSetCheck s) (fun _ =>
    let w := u64 (widthAfter s.gw.bpv.toNat s.args.a1.toNat)
    ({ s with gw := { s.gw with bpv := w, val := cellPut s.gw.val s.args.a0.toNat s.args.a1 } }).setRes0 w)

/-- `GW_RESIZE` (R386). -/
def execGwResize (s : State) : Host.Outcome State Fault Refusal :=
  s.conclude ((checkGwReady s).or (checkGwCapacity s.cfg s.args.a0.toNat s.gw.bpv.toNat)) (fun _ =>
    { s with gw := { s.gw with size := s.args.a0, val := cellBelow s.gw.val s.args.a0.toNat } })

/-! ## Paged array -/

/-- `np`, the page count of `size` values with page shift `sh` (R390). -/
def pgPageCount (size sh : Nat) : Nat := ceilDiv size (2 ^ sh)

/-- `len_k`, the length of page `k` of `size` values (10_state R51): the page size, or what is left of `size`. -/
def pgPageLen (size sh k : Nat) : Nat := min (2 ^ sh) (size - k * 2 ^ sh)

/-- `pg.np` (10_state R51). -/
def pgNp (g : PagedArray) : Nat := g.pages.length

/-- The word sum of the pages of widths `ws`, the first being page `k`, of `size` values (R390). -/
def pgWordsFrom (size sh k : Nat) : List Nat → Nat
  | [] => 0
  | w :: t => seqWords (pgPageLen size sh k) w + pgWordsFrom size sh (k + 1) t

/-- The word sum of pages of widths `ws` of `size` values (R390). -/
def pgWords (size sh : Nat) (ws : List Nat) : Nat := pgWordsFrom size sh 0 ws

/-- `PG_STORE_USED` (10_state R51). -/
def pgUsed (g : PagedArray) : Nat := pgWords g.size.toNat g.shift.toNat (g.pages.map PgPage.w)

/-- `PGCapacity(plan)` (R391) of a plan of `size` values in `np` pages whose widths are given; the widths are looked
at only when the page count is within its limit. A size above 2^64 - 1 never fits (R396). -/
def checkPgCapacity (p : Params) (size sh np : Nat) (widths : Unit → List Nat) : Check :=
  if p.pgMaxPages < np then some (.capacityExceeded, u64 np)
  else
    let words := pgWords size sh (widths ())
    require (words ≤ p.pgStoreWords ∧ size < 2 ^ 64) .capacityExceeded (u64 words)

/-- The admission check (45 section 2). -/
def checkPgReady (s : State) : Check := require (s.pg.state = .ready) .notInitialized 0

/-- The check of an index operand (R393, R394). -/
def checkPgIndex (s : State) : Check :=
  require (s.args.a0.toNat < s.pg.size.toNat) .indexOutOfRange s.args.a0

/-- The checks of `PG_INIT` (R392). -/
def pgInitCheck (w : Nat) (s : State) : Check :=
  let size := s.args.a0.toNat
  let sh := s.args.a1.toNat
  ((checkBpv w).or (require (6 ≤ sh ∧ sh ≤ 30) .invalidArgument s.args.a1)).or
    (if 6 ≤ sh ∧ sh ≤ 30 then
      checkPgCapacity s.cfg size sh (pgPageCount size sh) (fun _ => List.replicate (pgPageCount size sh) w)
    else none)

/-- `PG_INIT` (R392). -/
def execPgInit (w : Nat) (s : State) : Host.Outcome State Fault Refusal :=
  s.conclude (pgInitCheck w s) (fun _ =>
    { s with pg :=
      { state := .ready, size := s.args.a0, shift := s.args.a1, bpv0 := u64 w,
        pages := List.replicate (pgPageCount s.args.a0.toNat s.args.a1.toNat) ⟨w, []⟩ } })

/-- The page of an index (R390). -/
def pgPageOf (g : PagedArray) (i : Nat) : Nat := i / 2 ^ g.shift.toNat

/-- The offset of an index in its page (R390). -/
def pgOffsetOf (g : PagedArray) (i : Nat) : Nat := i % 2 ^ g.shift.toNat

/-- Page `k` (10_state R51). -/
def pgPage (g : PagedArray) (k : Nat) : PgPage := g.pages.getD k ⟨1, []⟩

/-- The value at an index (R393). -/
def pgValue (g : PagedArray) (i : Nat) : Word := cellGet (pgPage g (pgPageOf g i)).val (pgOffsetOf g i)

/-- `PG_GET` (R393). -/
def execPgGet (s : State) : Host.Outcome State Fault Refusal :=
  s.conclude ((checkPgReady s).or (checkPgIndex s)) (fun _ => s.setRes0 (pgValue s.pg s.args.a0.toNat))

/-- The width page `k` has after `v` is stored in it (R394). -/
def pgWidthAfter (g : PagedArray) (k v : Nat) : Nat := widthAfter (pgPage g k).w v

/-- The checks of `PG_SET` (R394): the capacity of the planned pages is checked only when the value widens its page. -/
def pgSetCheck (s : State) : Check :=
  let k := pgPageOf s.pg s.args.a0.toNat
  let v := s.args.a1.toNat
  ((checkPgReady s).or (checkPgIndex s)).or
    (if maxValue (pgPage s.pg k).w < v then
      checkPgCapacity s.cfg s.pg.size.toNat s.pg.shift.toNat (pgNp s.pg)
        (fun _ => (s.pg.pages.map PgPage.w).set k (bitlen v))
    else none)

/-- The pages after `v` is stored at index `i` (R394). -/
def pgSetPages (g : PagedArray) (i : Nat) (v : Word) : List PgPage :=
  let k := pgPageOf g i
  g.pages.set k ⟨pgWidthAfter g k v.toNat, cellPut (pgPage g k).val (pgOffsetOf g i) v⟩

/-- `PG_SET` (R394). -/
def execPgSet (s : State) : Host.Outcome State Fault Refusal :=
  s.conclude (pgSetCheck s) (fun _ =>
    ({ s with pg := { s.pg with pages := pgSetPages s.pg s.args.a0.toNat s.args.a1 } }).setRes0
      (u64 (pgWidthAfter s.pg (pgPageOf s.pg s.args.a0.toNat) s.args.a1.toNat)))

/-- The widths of the pages of a paged array rebuilt to `np` pages (R395): a kept page keeps its width, a new one takes
the declared width. -/
def pgRebuiltWidths (g : PagedArray) (np : Nat) : List Nat :=
  (g.pages.map PgPage.w).take np ++ List.replicate (np - pgNp g) g.bpv0.toNat

/-- The kept pages of a paged array cut to `size` values, the first of `pages` being page `k` (R395). -/
def pgCutPages (size sh : Nat) (k : Nat) : List PgPage → List PgPage
  | [] => []
  | q :: t => ⟨q.w, cellBelow q.val (pgPageLen size sh k)⟩ :: pgCutPages size sh (k + 1) t

/-- The paged array rebuilt to `size` values (R395). -/
def pgRebuilt (g : PagedArray) (size : Nat) : PagedArray :=
  let np := pgPageCount size g.shift.toNat
  { g with
    size := u64 size
    pages := pgCutPages size g.shift.toNat 0 (g.pages.take np) ++ List.replicate (np - pgNp g) ⟨g.bpv0.toNat, []⟩ }

/-- The capacity check of a rebuild to `size` values (R395). -/
def checkPgRebuild (p : Params) (g : PagedArray) (size : Nat) : Check :=
  let np := pgPageCount size g.shift.toNat
  checkPgCapacity p size g.shift.toNat np (fun _ => pgRebuiltWidths g np)

/-- `PG_RESIZE` (R395). -/
def execPgResize (s : State) : Host.Outcome State Fault Refusal :=
  s.conclude ((checkPgReady s).or (checkPgRebuild s.cfg s.pg s.args.a0.toNat)) (fun _ =>
    { s with pg := pgRebuilt s.pg s.args.a0.toNat })

/-- The size `PG_GROW` grows to for a minimum of `q` values (R396), an unbounded integer. -/
def pgGrowTarget (q : Nat) : Nat := q + max 3 (q / 8)

/-- The checks of `PG_GROW` (R396). -/
def pgGrowCheck (s : State) : Check :=
  (checkPgReady s).or
    (if s.args.a0.toNat ≤ s.pg.size.toNat then none
    else checkPgRebuild s.cfg s.pg (pgGrowTarget s.args.a0.toNat))

/-- The effect of `PG_GROW` (R396). -/
def pgGrowEffect (s : State) : State :=
  if s.args.a0.toNat ≤ s.pg.size.toNat then s.setRes0 s.pg.size
  else
    let m := pgGrowTarget s.args.a0.toNat
    ({ s with pg := pgRebuilt s.pg m }).setRes0 (u64 m)

/-- `PG_GROW` (R396). -/
def execPgGrow (s : State) : Host.Outcome State Fault Refusal :=
  s.conclude (pgGrowCheck s) (fun _ => pgGrowEffect s)

/-- `PG_PAGE_BPV` (R397). -/
def execPgPageBpv (s : State) : Host.Outcome State Fault Refusal :=
  s.conclude ((checkPgReady s).or (require (s.args.a0.toNat < pgNp s.pg) .indexOutOfRange s.args.a0))
    (fun _ => s.setRes0 (u64 (pgPage s.pg s.args.a0.toNat).w))

end Sys2Proof.Machine
end

