-- ==== Sys2Proof/Machine/EliasFano.lean ====
section
/-! DEFINITION. The Elias-Fano encoding layout (spec/30_encoding.md R180 to R185) and the checks the encoder and the
decoder share (spec/46_ef_encoder.md R430). -/

namespace Sys2Proof.Machine

/-- The parameters of an encoding (30_encoding R180). -/
structure EfParams where
  /-- numLowBits. -/
  l : Nat
  /-- `U >>> L`. -/
  h : Nat
  /-- number of index entries. -/
  nidx : Nat
  /-- width of an index entry. -/
  e : Nat
  /-- words of the upper region. -/
  uw : Nat
  /-- words of the lower region. -/
  lw : Nat
  /-- words of the index region. -/
  iw : Nat
deriving DecidableEq, Repr

/-- `L` (30_encoding R180). -/
def efLowBits (n u : Nat) : Nat := if n = 0 ∨ u / n = 0 then 0 else bitlen (u / n) - 1

/-- The parameters of an encoding of n values up to U with index interval I (30_encoding R180). -/
def efParams (n u i : Nat) : EfParams :=
  let l := efLowBits n u
  let h := u / 2 ^ l
  let nidx := h / i
  let e := bitlen (n + h)
  { l := l, h := h, nidx := nidx, e := e,
    uw := ceilDiv (n + h) 64, lw := ceilDiv (n * l) 64, iw := ceilDiv (nidx * e) 64 }

/-- Where an encoding lies: n, U, I and the three region bases (46 R433). -/
structure EfLayout where
  n : Nat
  u : Nat
  i : Nat
  ub : Nat
  lb : Nat
  ib : Nat
deriving DecidableEq, Repr

/-- The parameters of a layout. -/
def efParamsOf (y : EfLayout) : EfParams := efParams y.n y.u y.i

/-- The three regions as byte ranges (start, length): upper, lower, index (30_encoding R180). -/
def efRegions (y : EfLayout) : List (Nat × Nat) :=
  let p := efParamsOf y
  [(y.ub, 8 * p.uw), (y.lb, 8 * p.lw), (y.ib, 8 * p.iw)]

/-- Two of the three regions share a byte (46 R430; log 11). -/
def efOverlap (y : EfLayout) : Bool :=
  let p := efParamsOf y
  rangesMeet (y.ub, 8 * p.uw) (y.lb, 8 * p.lw) || rangesMeet (y.ub, 8 * p.uw) (y.ib, 8 * p.iw) ||
    rangesMeet (y.lb, 8 * p.lw) (y.ib, 8 * p.iw)

/-- The layout the operands of `EFE_INIT` / `EFD_INIT` name (R433, 47 R475). -/
def efLayoutOfArgs (a : Args) : EfLayout :=
  { n := a.a0.toNat, u := a.a1.toNat, i := a.a2.toNat, ub := a.a3.toNat, lb := a.a4.toNat, ib := a.a5.toNat }

/-- `CheckEFParams(n, U, I)` (46 R430). -/
def checkEfParams (p : Params) (y : EfLayout) : Check :=
  ((require (y.u ≤ 2 ^ 63 - 1) .invalidArgument (u64 y.u)).or
    (require (2 ≤ y.i) .invalidArgument (u64 y.i))).or
    (require (y.n ≤ p.efMaxValues) .capacityExceeded (u64 y.n))

/-- The check of one region of `words` words; an empty region is not checked (46 R430). -/
def checkEfRegion (p : Params) (base words : Nat) : Check :=
  if words = 0 then none else checkArray64 p base words

/-- `CheckEFRegions(ub, lb, ib)` (46 R430). -/
def checkEfRegions (p : Params) (y : EfLayout) : Check :=
  let q := efParamsOf y
  ((checkEfRegion p y.ub q.uw).or (checkEfRegion p y.lb q.lw)).or (checkEfRegion p y.ib q.iw)

/-- The checks of `EFE_INIT` and `EFD_INIT` (46 R433, 47 R475). -/
def checkEfInit (p : Params) (y : EfLayout) : Check := (checkEfParams p y).or (checkEfRegions p y)

/-! ## Field writes (46 R431) -/

/-- `SetUpperBit(t)` (46 R431). -/
def setUpperBit (m : Memory) (ub t : Nat) : Memory :=
  let a := ub + 8 * (t / 64)
  writeWord m a (readWord m a ||| BitVec.ofNat 64 (2 ^ (t % 64)))

/-- `PutPacked(base, w, j, v)` (46 R431): the one or two words the field touches are read as one number, the field is
replaced, and they are written back. -/
def putPacked (m : Memory) (base w j v : Nat) : Memory :=
  let first := j * w / 64
  let words := (j * w + w - 1) / 64 - first + 1
  let a := base + 8 * first
  let old := memRead m a (8 * words)
  let sh := 64 * words - (j * w - 64 * first) - w
  memWrite m a (8 * words) (old - old / 2 ^ sh % 2 ^ w * 2 ^ sh + v % 2 ^ w * 2 ^ sh)

/-! ## The encoding of a sequence (30_encoding R181 to R185) -/

/-- `h_i = x_i >>> L`. -/
def efHigh (l x : Nat) : Nat := x / 2 ^ l

/-- The one bits of the upper stream, the first of `xs` being value `i`: `i + (x_i >>> L)` (30_encoding R181). -/
def efOnes (l : Nat) (i : Nat) : List Nat → List Nat
  | [] => []
  | x :: t => (i + efHigh l x) :: efOnes l (i + 1) t

/-- The upper region of `uw` words with the given one bits, as one number (30_encoding R181: stream bit t is bit
t mod 64 of word t div 64). -/
def efUpperNumber (uw : Nat) (ones : List Nat) : Nat :=
  (ones.map (fun t => 2 ^ (64 * (uw - 1 - t / 64) + t % 64))).sum

/-- A PACKED array of `words` words holding `vs` at width `w`, stream bits past the last value 0, as one number
(30_encoding R182, R183). -/
def efPackedNumber (words w : Nat) (vs : List Nat) : Nat := joinFields w vs * 2 ^ (64 * words - vs.length * w)

/-- `entry_k` (30_encoding R183). -/
def efEntry (l i : Nat) (xs : List Nat) (k : Nat) : Nat :=
  (k + 1) * i + (xs.filter (fun x => decide (efHigh l x < (k + 1) * i))).length

/-- The three regions hold what R181 to R183 give for the sequence `xs`. -/
def efHolds (m : Memory) (y : EfLayout) (xs : List Nat) : Bool :=
  let p := efParamsOf y
  (memRead m y.ub (8 * p.uw) == efUpperNumber p.uw (efOnes p.l 0 xs)) &&
  (memRead m y.lb (8 * p.lw) == efPackedNumber p.lw p.l xs) &&
  (memRead m y.ib (8 * p.iw) == efPackedNumber p.iw p.e ((List.range p.nidx).map (efEntry p.l y.i xs)))

/-- `xs` is a sequence an encoding of the layout may hold: n values, non-decreasing, none above U (30_encoding R185). -/
def efSequenceOk (y : EfLayout) (xs : List Nat) : Bool :=
  xs.length == y.n && decide (xs.Pairwise (· ≤ ·)) && xs.all (fun x => decide (x ≤ y.u))

/-- Upper stream bit t (30_encoding R181). -/
def upperBit (m : Memory) (ub t : Nat) : Bool := (readWord m (ub + 8 * (t / 64))).getLsbD (t % 64)

/-- Positions of the one bits of the upper stream (47 R474). -/
def onePositions (m : Memory) (ub len : Nat) : List Nat := (List.range len).filter (upperBit m ub)

/-- `x_i = (h_i << L) OR low_i` (47 R474), the first position being that of value `i`. -/
def combineFrom (l i : Nat) : List Nat → List Nat → List Nat
  | p :: ps, low :: lows => ((p - i) * 2 ^ l + low) :: combineFrom l (i + 1) ps lows
  | _, _ => []

/-- The values the regions decode to (47 R474). -/
def efDecoded (m : Memory) (y : EfLayout) : List Nat :=
  let p := efParamsOf y
  combineFrom p.l 0 (onePositions m y.ub (y.n + p.h))
    (splitFields p.l y.n (64 * p.lw) (memRead m y.lb (8 * p.lw)))

/-- The decoded sequence, if the three regions are disjoint and hold a valid encoding (30_encoding R185); `none`
otherwise: the decoder's results are then unspecified (47 R474; log 11, log 12). -/
def efSequence (m : Memory) (y : EfLayout) : Option (List Nat) :=
  let xs := efDecoded m y
  if !efOverlap y && efSequenceOk y xs && efHolds m y xs then some xs else none

end Sys2Proof.Machine
end

