-- ==== Sys2Proof/Machine/EfEncoder.lean ====
section
/-! DEFINITION. The Elias-Fano encoder commands (spec/46_ef_encoder.md R430 to R436). -/

namespace Sys2Proof.Machine

/-- The layout of the encoder's context (10_state R52). -/
def efeLayout (c : EfEncoder) : EfLayout :=
  { n := c.n.toNat, u := c.u.toNat, i := c.i.toNat, ub := c.ub.toNat, lb := c.lb.toNat, ib := c.ib.toNat }

/-- The context `EFE_INIT` leaves (R433). -/
def efeInitContext (a : Args) : EfEncoder :=
  let p := efParamsOf (efLayoutOfArgs a)
  { state := .encoding, n := a.a0, u := a.a1, i := a.a2, l := u64 p.l, e := u64 p.e, nidx := u64 p.nidx,
    numEnc := 0, last := 0, ub := a.a3, lb := a.a4, ib := a.a5, next := 0 }

/-- The state with the regions of a layout in their final contents: as `s` has them when the regions are disjoint, free
values when two of them overlap (R430; log 11). -/
def State.settleRegions (s : State) (y : EfLayout) : State :=
  if efOverlap y then s.havocRanges (efRegions y) else s

/-- The memory with the three regions zeroed (R433). -/
def zeroRegions (m : Memory) (y : EfLayout) : Memory :=
  let p := efParamsOf y
  zeroBytes (zeroBytes (zeroBytes m y.ub (8 * p.uw)) y.lb (8 * p.lw)) y.ib (8 * p.iw)

/-- The effect of `EFE_INIT` (R433). -/
def efeInitEffect (s : State) : State :=
  let y := efLayoutOfArgs s.args
  let p := efParamsOf y
  let t := ({ s with mem := zeroRegions s.mem y, efe := efeInitContext s.args }).settleRegions y
  (((t.setRes0 (u64 p.l)).setRes1 (u64 p.uw)).setRes2 (u64 p.lw)).setRes3 (u64 p.iw)

/-- `EFE_INIT` (R433). -/
def execEfeInit (s : State) : Host.Outcome State Fault Refusal :=
  s.conclude (checkEfInit s.cfg (efLayoutOfArgs s.args)) (fun _ => efeInitEffect s)

/-- The index entries from `next` on that lie at or below the high part bound, at most `k` of them, written with
`count` added (R432, R435): entry j is `(j + 1) * I + count`. -/
def putEntries (c : EfEncoder) (bound : Option Nat) (count : Nat) : Nat → Memory → Nat → Memory × Nat
  | 0, m, next => (m, next)
  | k + 1, m, next =>
    if bound.all (fun h => decide ((next + 1) * c.i.toNat ≤ h)) then
      putEntries c bound count k
        (putPacked m c.ib.toNat c.e.toNat next ((next + 1) * c.i.toNat + count)) (next + 1)
    else (m, next)

/-- `EncodeValue(x)` for the value of index `numEnc` (R432): the memory and the count of index entries after it. -/
def encodeValue (c : EfEncoder) (x : Nat) (m : Memory) : Memory × Nat :=
  let i := c.numEnc.toNat
  let l := c.l.toNat
  let h := efHigh l x
  let m1 := setUpperBit m c.ub.toNat (i + h)
  let m2 := if 0 < l then putPacked m1 c.lb.toNat l i (x % 2 ^ l) else m1
  putEntries c (some h) i (c.nidx.toNat - c.next.toNat) m2 c.next.toNat

/-- The state checks of `EFE_ENCODE` and `EFE_FINISH` (R434, R435). -/
def checkEfeEncoding (s : State) : Check :=
  (require (s.efe.state ≠ .uninit) .notInitialized 0).or (require (s.efe.state ≠ .finished) .alreadyFinished 0)

/-- The checks of `EFE_ENCODE` (R434). -/
def efeEncodeCheck (s : State) : Check :=
  let x := s.args.a0
  (((checkEfeEncoding s).or (require (s.efe.numEnc ≠ s.efe.n) .capacityExceeded s.efe.n)).or
    (require (s.efe.numEnc = 0 ∨ s.efe.last.toNat ≤ x.toNat) .sequenceError x)).or
    (require (x.toNat ≤ s.efe.u.toNat) .sequenceError x)

/-- A result of a command over overlapping regions: a free value, the first draw after the state `s` (R430,
93_implementation_defined; log 11). -/
def State.overlapResult (s : State) (y : EfLayout) (v : Word) : State :=
  if efOverlap y then (s.setRes0 (s.free 0)).drew 1 else s.setRes0 v

/-- The effect of `EFE_ENCODE` (R434). -/
def efeEncodeEffect (s : State) : State :=
  let y := efeLayout s.efe
  let r := encodeValue s.efe s.args.a0.toNat s.mem
  let t := { s with mem := r.1, efe := { s.efe with last := s.args.a0, numEnc := s.efe.numEnc + 1, next := u64 r.2 } }
  (t.settleRegions y).overlapResult y (s.efe.numEnc + 1)

/-- `EFE_ENCODE` (R434). -/
def execEfeEncode (s : State) : Host.Outcome State Fault Refusal :=
  s.conclude (efeEncodeCheck s) (fun _ => efeEncodeEffect s)

/-- The checks of `EFE_FINISH` (R435). -/
def efeFinishCheck (s : State) : Check :=
  (checkEfeEncoding s).or (require (s.efe.numEnc = s.efe.n) .sequenceError s.efe.numEnc)

/-- The effect of `EFE_FINISH` (R435): the entries past the last high part are written. -/
def efeFinishEffect (s : State) : State :=
  let y := efeLayout s.efe
  let r := putEntries s.efe none s.efe.n.toNat (s.efe.nidx.toNat - s.efe.next.toNat) s.mem s.efe.next.toNat
  let t := { s with mem := r.1, efe := { s.efe with next := u64 r.2, state := .finished } }
  (t.settleRegions y).overlapResult y s.efe.numEnc

/-- `EFE_FINISH` (R435). -/
def execEfeFinish (s : State) : Host.Outcome State Fault Refusal :=
  s.conclude (efeFinishCheck s) (fun _ => efeFinishEffect s)

end Sys2Proof.Machine
end

