-- ==== Sys2Proof/Machine/EfDecoder.lean ====
section
/-! DEFINITION. The Elias-Fano decoder commands (spec/47_ef_decoder.md R470 to R483). The index region is not used to
find a value (R483). -/

namespace Sys2Proof.Machine

/-- `NO_MORE_VALUES` (R471). -/
def noMoreValues : Word := BitVec.allOnes 64

/-- The layout of the decoder's context (10_state R53). -/
def efdLayout (c : EfDecoder) : EfLayout :=
  { n := c.n.toNat, u := c.u.toNat, i := c.i.toNat, ub := c.ub.toNat, lb := c.lb.toNat, ib := c.ib.toNat }

/-- The encoder has not finished the encoding in the decoder's regions: it is between `EFE_INIT` and `EFE_FINISH`, and one
of its regions shares a byte with one of the decoder's (46 R436, 70_reset R590 item 7; log 25). -/
def efdUnfinished (s : State) : Bool :=
  decide (s.efe.state = .encoding) &&
    (efRegions (efeLayout s.efe)).any (fun r => (efRegions (efdLayout s.efd)).any (rangesMeet r))

/-- The sequence the decoder is open on, `none` where its regions hold no valid encoding, be it that the encoder has not
finished it (R474, 46 R436). -/
def efdSequence (s : State) : Option (List Nat) :=
  if efdUnfinished s then none else efSequence s.mem (efdLayout s.efd)

/-- `HP(i)` (R472) over the sequence `xs` with low width `l`. -/
def highPos (l : Nat) (xs : List Nat) (i : Int) : Int :=
  if i < 0 then -1
  else if i < (xs.length : Int) then i + (efHigh l (xs.getD i.toNat 0) : Int)
  else if xs.length = 0 then 0
  else (xs.length : Int) + (efHigh l (xs.getLastD 0) : Int)

/-- The value `Report()` returns at an index (47 section 2): x_i, or `NO_MORE_VALUES` outside the sequence. -/
def reportValue (xs : List Nat) (i : Int) : Word :=
  if 0 ≤ i ∧ i < (xs.length : Int) then u64 (xs.getD i.toNat 0) else noMoreValues

/-- `Report()` (47 section 2). -/
def State.report (s : State) (xs : List Nat) : State :=
  (s.setRes0 (reportValue xs s.efd.idx)).setRes1 (u64i s.efd.idx)

/-- The results of a report over regions that hold no valid encoding: free values (R474; log 12). -/
def State.reportFree (s : State) : State :=
  ((s.setRes0 (s.free 0)).setRes1 (s.free 1)).drew 2

/-- The cursor moved to an index (R472): `efd.idx` and `efd.hp = HP(efd.idx)`. -/
def State.moveTo (s : State) (xs : List Nat) (i : Int) : State :=
  { s with efd := { s.efd with idx := i, hp := highPos s.efd.l.toNat xs i } }

/-- The cursor after a movement over regions that hold no valid encoding: free values (R474; log 12). -/
def State.moveFree (s : State) : State :=
  ({ s with efd := { s.efd with idx := (s.free 0).toInt, hp := (s.free 1).toInt } }).drew 2

/-- The admission check (47 section 2). -/
def checkEfdReady (s : State) : Check := require (s.efd.state = .ready) .notInitialized 0

/-- The direction check (R473). -/
def checkDirection (s : State) (d : Direction) : Check :=
  require (s.efd.dir = d) .directionError (u64 (directionCode s.efd.dir))

/-- A movement: to the index `target` gives over the decoded sequence, with a report (R476 to R479); free values where
there is no valid encoding (log 12). -/
def State.efdMove (s : State) (target : List Nat → Int) : State :=
  match efdSequence s with
  | some xs => (s.moveTo xs (target xs)).report xs
  | none => s.moveFree.reportFree

/-- The context `EFD_INIT` leaves (R475). -/
def efdInitContext (a : Args) : EfDecoder :=
  let p := efParamsOf (efLayoutOfArgs a)
  { state := .ready, dir := .forward, n := a.a0, u := a.a1, i := a.a2, l := u64 p.l, e := u64 p.e,
    ub := a.a3, lb := a.a4, ib := a.a5, idx := -1, hp := -1 }

/-- `EFD_INIT` (R475); it reads no memory. -/
def execEfdInit (s : State) : Host.Outcome State Fault Refusal :=
  s.conclude (checkEfInit s.cfg (efLayoutOfArgs s.args)) (fun _ =>
    ({ s with efd := efdInitContext s.args }).setRes0 (u64 (efParamsOf (efLayoutOfArgs s.args)).l))

/-- The index `EFD_NEXT` moves to (R476). -/
def efdNextIndex (idx : Int) (xs : List Nat) : Int := min (idx + 1) (xs.length : Int)

/-- `EFD_NEXT` (R476). -/
def execEfdNext (s : State) : Host.Outcome State Fault Refusal :=
  s.conclude ((checkEfdReady s).or (checkDirection s .forward)) (fun _ => s.efdMove (efdNextIndex s.efd.idx))

/-- The index `EFD_ADVANCE` moves to (R477): the first after the cursor whose value is at least `t`, else n. -/
def efdAdvanceIndex (idx : Int) (t : Nat) (xs : List Nat) : Int :=
  match (List.range xs.length).find? (fun (j : Nat) => decide (idx + 1 ≤ (j : Int)) && decide (t ≤ xs.getD j 0)) with
  | some j => (j : Int)
  | none => (xs.length : Int)

/-- `EFD_ADVANCE` (R477). -/
def execEfdAdvance (s : State) : Host.Outcome State Fault Refusal :=
  s.conclude ((checkEfdReady s).or (checkDirection s .forward)) (fun _ =>
    s.efdMove (efdAdvanceIndex s.efd.idx s.args.a0.toNat))

/-- The index `EFD_PREV` moves to (R478). -/
def efdPrevIndex (idx : Int) : Int := max (idx - 1) (-1)

/-- `EFD_PREV` (R478). -/
def execEfdPrev (s : State) : Host.Outcome State Fault Refusal :=
  s.conclude ((checkEfdReady s).or (checkDirection s .backward)) (fun _ =>
    s.efdMove (fun _ => efdPrevIndex s.efd.idx))

/-- The index `EFD_BACK` moves to (R479): the last before the cursor whose value is at most `t`, else -1. -/
def efdBackIndex (idx : Int) (t : Nat) (xs : List Nat) : Int :=
  match (List.range xs.length).reverse.find? (fun (j : Nat) => decide ((j : Int) ≤ idx - 1) && decide (xs.getD j 0 ≤ t)) with
  | some j => (j : Int)
  | none => -1

/-- `EFD_BACK` (R479). -/
def execEfdBack (s : State) : Host.Outcome State Fault Refusal :=
  s.conclude ((checkEfdReady s).or (checkDirection s .backward)) (fun _ =>
    s.efdMove (efdBackIndex s.efd.idx s.args.a0.toNat))

/-- `EFD_TO_BEFORE` (R480); it reads no memory. -/
def execEfdToBefore (s : State) : Host.Outcome State Fault Refusal :=
  s.conclude (checkEfdReady s) (fun _ => { s with efd := { s.efd with idx := -1, hp := -1, dir := .forward } })

/-- The effect of `EFD_TO_AFTER` (R481). -/
def efdToAfterEffect (s : State) : State :=
  let t := { s with efd := { s.efd with dir := .backward } }
  match efdSequence s with
  | some xs => t.moveTo xs (s.efd.n.toNat : Int)
  | none => t.moveFree

/-- `EFD_TO_AFTER` (R481). -/
def execEfdToAfter (s : State) : Host.Outcome State Fault Refusal :=
  s.conclude (checkEfdReady s) (fun _ => efdToAfterEffect s)

/-- The effect of `EFD_CURRENT` (R482). -/
def efdCurrentEffect (s : State) : State :=
  match efdSequence s with
  | some xs => s.report xs
  | none => s.reportFree

/-- `EFD_CURRENT` (R482). -/
def execEfdCurrent (s : State) : Host.Outcome State Fault Refusal :=
  s.conclude (checkEfdReady s) (fun _ => efdCurrentEffect s)

end Sys2Proof.Machine
end

