-- ==== Sys2Proof/Machine/FormatSelect.lean ====
section
/-! DEFINITION. The format selector (spec/41_format_selector.md R240 to R242). -/

namespace Sys2Proof.Machine

/-- The single-block width the scan of R241 stops at: the first of SB_WIDTHS from `bpv` to `maxb` whose padding is
within the budget `acc` (in 1/65536 bit per value). -/
def singleBlockPick (bpv maxb acc : Nat) : Option Nat :=
  sbWidths.find? (fun w =>
    decide (bpv ≤ w ∧ w ≤ maxb ∧
      (((64 % w) * 65536 : Nat) : Int) ≤ ((acc : Int) + ((bpv : Int) - (w : Int)) * 65536) * ((64 / w : Nat) : Int)))

/-- The ratio clamped to 7 (R240). -/
def clampRatio (ratio : Nat) : Nat := min ratio (7 * 65536)

/-- `acc`, the acceptable overhead per value in 1/65536 bit (R241). -/
def fsAcc (bpv ratio : Nat) : Nat := clampRatio ratio * bpv

/-- `maxb`, the largest acceptable number of bits per value (R241). -/
def fsMaxBits (bpv ratio : Nat) : Nat := bpv + fsAcc bpv ratio / 65536

/-- The format and width the selector chooses (R241) for a width, a value count and a ratio (Q16.16). -/
def fsChoose (p : Params) (bpv vc ratio : Nat) : Format × Nat :=
  let acc := fsAcc bpv ratio
  let maxb := fsMaxBits bpv ratio
  if bpv ≤ 8 ∧ 8 ≤ maxb then (.packed, 8)
  else if bpv ≤ 16 ∧ 16 ≤ maxb then (.packed, 16)
  else if bpv ≤ 32 ∧ 32 ≤ maxb then (.packed, 32)
  else if bpv ≤ 64 ∧ 64 ≤ maxb then (.packed, 64)
  else if bpv ≤ 24 ∧ 24 ≤ maxb ∧ vc ≤ p.max24 then (.packed, 24)
  else if bpv ≤ 48 ∧ 48 ≤ maxb ∧ vc ≤ p.max48 then (.packed, 48)
  else match singleBlockPick bpv maxb acc with
    | some w => (.singleBlock, w)
    | none => (.packed, bpv)

/-- The format id as a result (R241, 30_encoding R160). -/
def formatResult : Format → Word
  | .packed => 0
  | .singleBlock => 1

/-- `FS_SELECT` (R241). -/
def execFsSelect (bpv : Nat) (s : State) : Host.Outcome State Fault Refusal :=
  s.conclude (checkBpv bpv) (fun _ =>
    let c := fsChoose s.cfg bpv s.args.a0.toNat s.args.a1.toNat
    ((s.setRes0 (formatResult c.1)).setRes1 (u64 c.2)).setRes2
      (u64 (min (fsMaxBits bpv s.args.a1.toNat) 64)))

end Sys2Proof.Machine
end

