-- ==== Sys2Proof/Machine/GrowableBuffer.lean ====
section
/-! DEFINITION. The growable append buffer commands (spec/44_growable_buffer.md R340 to R350). -/

namespace Sys2Proof.Machine

/-- Words of the internal store a packed block of page size `p` and width `bits` occupies (R343). -/
def gbBlockWords (p bits : Nat) : Nat := ceilDiv (p * bits) 64

/-- `gb.nblocks` (10_state R49). -/
def gbNblocks (g : GrowableBuffer) : Nat := g.blk.length

/-- `gb.used`, the sum over the packed blocks (R343). -/
def gbUsed (g : GrowableBuffer) : Nat := (g.blk.map (fun b => gbBlockWords g.pageSize.toNat b.bits)).sum

/-- The number of values in the pending buffer (R340). -/
def gbPending (g : GrowableBuffer) : Nat := g.size.toNat - gbNblocks g * g.pageSize.toNat

/-- `PackPlain(vals)` (R341): unmodified deltas from the signed minimum. -/
def packPlain (vs : List Word) : GbBlock :=
  let base := signedMin (vs.headD 0) vs
  let res := vs.map (fun v => v - base)
  { base := base, avg := 0, bits := residueWidth res, res := res }

/-- `PackMono(vals)` (R342). -/
def packMono (vs : List Word) : GbBlock :=
  let base := vs.headD 0
  let avg := monoAvg base (vs.getLastD 0) vs.length
  let res := monoResidues base avg 0 vs
  { base := base, avg := avg, bits := residueWidth res, res := res }

/-- The value at offset `o` of a packed block (R350). -/
def gbBlockValue (mono : Bool) (b : GbBlock) (o : Nat) : Word :=
  let r := b.res.getD o 0
  if mono then b.base + pred b.avg o + unzz r else b.base + r

/-- `GetValue(i)` (R350). -/
def gbValue (g : GrowableBuffer) (i : Nat) : Word :=
  let k := i / g.pageSize.toNat
  let o := i % g.pageSize.toNat
  match g.blk[k]? with
  | some b => gbBlockValue g.mono b o
  | none => g.pend.getD o 0

/-- The context after `GB_INIT` / `GB_INIT_MONO` (R344, R345). -/
def gbInitContext (mono : Bool) (p : Word) : GrowableBuffer :=
  { state := .ready, mono := mono, pageSize := p, size := 0, blk := [], pend := List.replicate p.toNat 0,
    ipos := 0, iend := 0 }

/-- `GB_INIT` (R344). -/
def execGbInit (s : State) : Host.Outcome State Fault Refusal :=
  s.conclude (checkBlockSize s.args.a0) (fun _ => { s with gb := gbInitContext false s.args.a0 })

/-- `GB_INIT_MONO` (R345). -/
def execGbInitMono (s : State) : Host.Outcome State Fault Refusal :=
  s.conclude (checkBlockSize s.args.a0) (fun _ => { s with gb := gbInitContext true s.args.a0 })

/-- The admission check of the other commands (44 section 2). -/
def checkGbReady (s : State) : Check := require (s.gb.state = .ready) .notInitialized 0

/-- This add fills the block: p = P - 1 (R346). -/
abbrev gbFills (g : GrowableBuffer) : Prop := gbPending g + 1 = g.pageSize.toNat

/-- The record the add of `v` packs when it fills the block (R346). -/
def gbPack (g : GrowableBuffer) (v : Word) : GbBlock :=
  let vs := g.pend.take (gbPending g) ++ [v]
  if g.mono then packMono vs else packPlain vs

/-- The capacity check of a packed block (R343): slots first, then words. -/
def checkGbCapacity (p : Params) (g : GrowableBuffer) (b : GbBlock) : Check :=
  let words := gbUsed g + gbBlockWords g.pageSize.toNat b.bits
  (require (gbNblocks g < p.gbMaxBlocks) .capacityExceeded (u64 (gbNblocks g + 1))).or
    (require (words ≤ p.gbStoreWords) .capacityExceeded (u64 words))

/-- The checks of `GB_ADD` (R346). -/
def gbAddCheck (s : State) : Check :=
  (checkGbReady s).or
    (if gbFills s.gb then checkGbCapacity s.cfg s.gb (gbPack s.gb s.args.a0) else none)

/-- The context after a `GB_ADD` of `v` (R346). -/
def gbAddContext (g : GrowableBuffer) (v : Word) : GrowableBuffer :=
  if gbFills g then { g with blk := g.blk ++ [gbPack g v], size := g.size + 1 }
  else { g with pend := g.pend.set (gbPending g) v, size := g.size + 1 }

/-- `GB_ADD` (R346). -/
def execGbAdd (s : State) : Host.Outcome State Fault Refusal :=
  s.conclude (gbAddCheck s) (fun _ =>
    ({ s with gb := gbAddContext s.gb s.args.a0 }).setRes0 s.gb.size)

/-- `GB_GET` (R347). -/
def execGbGet (s : State) : Host.Outcome State Fault Refusal :=
  s.conclude ((checkGbReady s).or (require (s.args.a0.toNat < s.gb.size.toNat) .indexOutOfRange s.args.a0))
    (fun _ => s.setRes0 (gbValue s.gb s.args.a0.toNat))

/-- `GB_ITER_RESET` (R348). -/
def execGbIterReset (s : State) : Host.Outcome State Fault Refusal :=
  s.conclude (checkGbReady s) (fun _ =>
    ({ s with gb := { s.gb with ipos := 0, iend := s.gb.size } }).setRes0 s.gb.size)

/-- The effect of `GB_ITER_NEXT` (R349). -/
def gbIterStep (s : State) : State :=
  if s.gb.ipos.toNat < s.gb.iend.toNat then
    (({ s with gb := { s.gb with ipos := s.gb.ipos + 1 } }).setRes0 (gbValue s.gb s.gb.ipos.toNat)).setRes1 1
  else (s.setRes0 0).setRes1 0

/-- `GB_ITER_NEXT` (R349). -/
def execGbIterNext (s : State) : Host.Outcome State Fault Refusal :=
  s.conclude (checkGbReady s) (fun _ => gbIterStep s)

end Sys2Proof.Machine
end

