-- ==== Sys2Proof/Machine/System.lean ====
section
/-! DEFINITION. The system commands (spec/48_system.md R510, R511). -/

namespace Sys2Proof.Machine

/-- `NOP` (48_system R510): only the completion happens. -/
def execNop (s : State) : Host.Outcome State Fault Refusal := s.conclude none (fun _ => s)

/-- The contexts the unit mask names return to their reset values (48_system R511, 10_state R47 to R53). -/
def State.resetUnits (s : State) (m : Word) : State :=
  { s with
    de := if m.getLsbD 0 then {} else s.de
    dd := if m.getLsbD 1 then {} else s.dd
    gb := if m.getLsbD 2 then {} else s.gb
    gw := if m.getLsbD 3 then {} else s.gw
    pg := if m.getLsbD 4 then {} else s.pg
    efe := if m.getLsbD 5 then {} else s.efe
    efd := if m.getLsbD 6 then {} else s.efd }

/-- `UNIT_RESET` (48_system R511). -/
def execUnitReset (s : State) : Host.Outcome State Fault Refusal :=
  s.conclude (require (s.args.a0.toNat < 2 ^ 7) .invalidArgument s.args.a0) (fun _ => s.resetUnits s.args.a0)

end Sys2Proof.Machine
end

