-- ==== Sys2Proof/Machine/Dispatch.lean ====
section
/-! DEFINITION. The meaning of every command: the engine's execution of it from the state its acceptance left to its
completion (spec/60_exceptions.md R535, R536). One arm per constructor of Instr. -/

namespace Sys2Proof.Machine

/-- The execution of a command, its completion included. -/
def exec (i : Instr) (s : State) : Host.Outcome State Fault Refusal :=
  match i with
  | .nop => Sys2Proof.Machine.execNop s
  | .fsSelect bpv => Sys2Proof.Machine.execFsSelect bpv s
  | .bpGeom bpv fmt => Sys2Proof.Machine.execBpGeom bpv fmt s
  | .unitReset => Sys2Proof.Machine.execUnitReset s
  | .bpDecLL bpv fmt => Sys2Proof.Machine.execBpDecLL bpv fmt s
  | .bpDecBL bpv fmt => Sys2Proof.Machine.execBpDecBL bpv fmt s
  | .bpEncLL bpv fmt => Sys2Proof.Machine.execBpEncLL bpv fmt s
  | .bpEncLB bpv fmt => Sys2Proof.Machine.execBpEncLB bpv fmt s
  | .deInit => Sys2Proof.Machine.execDeInit s
  | .deInitMono => Sys2Proof.Machine.execDeInitMono s
  | .deAdd => Sys2Proof.Machine.execDeAdd s
  | .deFinish => Sys2Proof.Machine.execDeFinish s
  | .ddInit => Sys2Proof.Machine.execDdInit s
  | .ddInitMono => Sys2Proof.Machine.execDdInitMono s
  | .ddNext => Sys2Proof.Machine.execDdNext s
  | .ddSkip => Sys2Proof.Machine.execDdSkip s
  | .gbInit => Sys2Proof.Machine.execGbInit s
  | .gbInitMono => Sys2Proof.Machine.execGbInitMono s
  | .gbAdd => Sys2Proof.Machine.execGbAdd s
  | .gbGet => Sys2Proof.Machine.execGbGet s
  | .gbIterReset => Sys2Proof.Machine.execGbIterReset s
  | .gbIterNext => Sys2Proof.Machine.execGbIterNext s
  | .gwInit bpv => Sys2Proof.Machine.execGwInit bpv s
  | .gwGet => Sys2Proof.Machine.execGwGet s
  | .gwSet => Sys2Proof.Machine.execGwSet s
  | .gwResize => Sys2Proof.Machine.execGwResize s
  | .pgInit bpv => Sys2Proof.Machine.execPgInit bpv s
  | .pgGet => Sys2Proof.Machine.execPgGet s
  | .pgSet => Sys2Proof.Machine.execPgSet s
  | .pgResize => Sys2Proof.Machine.execPgResize s
  | .pgGrow => Sys2Proof.Machine.execPgGrow s
  | .pgPageBpv => Sys2Proof.Machine.execPgPageBpv s
  | .efeInit => Sys2Proof.Machine.execEfeInit s
  | .efeEncode => Sys2Proof.Machine.execEfeEncode s
  | .efeFinish => Sys2Proof.Machine.execEfeFinish s
  | .efdInit => Sys2Proof.Machine.execEfdInit s
  | .efdNext => Sys2Proof.Machine.execEfdNext s
  | .efdAdvance => Sys2Proof.Machine.execEfdAdvance s
  | .efdPrev => Sys2Proof.Machine.execEfdPrev s
  | .efdBack => Sys2Proof.Machine.execEfdBack s
  | .efdToBefore => Sys2Proof.Machine.execEfdToBefore s
  | .efdToAfter => Sys2Proof.Machine.execEfdToAfter s
  | .efdCurrent => Sys2Proof.Machine.execEfdCurrent s

end Sys2Proof.Machine
end

