-- ==== Sys2Proof/Machine/Hazards.lean ====
section
/-! DEFINITION. What the host may disturb while a command runs (spec/70_reset_and_hazards.md R582, R590, R591,
spec/20_memory.md R109): the ranges of the data memory the running command uses, and the free values the disturbed
registers and bytes take (spec/93_implementation_defined.md, `any value`; log 7, log 8, log 14). -/

namespace Sys2Proof.Machine

/-- The range, if the check of the command that uses it finds no error. -/
def rangesIf (c : Check) (rs : List (Nat × Nat)) : List (Nat × Nat) := if c.isNone then rs else []

/-- The output stream's checked range (20_memory R105, R112), where the command is admitted. -/
def outRange (s : State) : List (Nat × Nat) :=
  rangesIf (checkWriter s) [(s.outPtr.toNat, s.outEnd.toNat - s.outPtr.toNat)]

/-- The input stream's checked range (20_memory R105, R112). -/
def inRange (s : State) : List (Nat × Nat) := [(s.inPtr.toNat, s.inEnd.toNat - s.inPtr.toNat)]

/-- The ranges of the data memory a command may write, as its checks found them (20_memory R101, R105; log 14). -/
def writeRanges (i : Instr) (s : State) : List (Nat × Nat) :=
  match i with
  | .bpDecLL w f => let b := bpArraysDecLL w f s; rangesIf (bpCheckDecLL w f s) [(b.dst, b.dstBytes)]
  | .bpDecBL w f => let b := bpArraysDecBL w f s; rangesIf (bpCheckDecBL w f s) [(b.dst, b.dstBytes)]
  | .bpEncLL w f => let b := bpArraysEncLL w f s; rangesIf (bpCheckEncLL w f s) [(b.dst, b.dstBytes)]
  | .bpEncLB w f => let b := bpArraysEncLB w f s; rangesIf (bpCheckEncLB w f s) [(b.dst, b.dstBytes)]
  | .deAdd => if deFills s.de then outRange s else []
  | .deFinish => if s.de.pending = 0 then [] else outRange s
  | .efeInit => let y := efLayoutOfArgs s.args; rangesIf (checkEfInit s.cfg y) (efRegions y)
  | .efeEncode => rangesIf (efeEncodeCheck s) (efRegions (efeLayout s.efe))
  | .efeFinish => rangesIf (efeFinishCheck s) (efRegions (efeLayout s.efe))
  | .nop | .fsSelect _ | .bpGeom _ _ | .unitReset | .deInit | .deInitMono | .ddInit | .ddInitMono | .ddNext | .ddSkip
  | .gbInit | .gbInitMono | .gbAdd | .gbGet | .gbIterReset | .gbIterNext | .gwInit _ | .gwGet | .gwSet | .gwResize
  | .pgInit _ | .pgGet | .pgSet | .pgResize | .pgGrow | .pgPageBpv | .efdInit | .efdNext | .efdAdvance | .efdPrev
  | .efdBack | .efdToBefore | .efdToAfter | .efdCurrent => []

/-- The regions of the decoder, where a command that reads them is admitted. -/
def efdReadRanges (s : State) (c : Check) : List (Nat × Nat) := rangesIf c (efRegions (efdLayout s.efd))

/-- The ranges of the data memory a command may read (20_memory R101, 70_reset R591). -/
def readRanges (i : Instr) (s : State) : List (Nat × Nat) :=
  match i with
  | .bpDecLL w f => let b := bpArraysDecLL w f s; rangesIf (bpCheckDecLL w f s) [(b.src, b.srcBytes)]
  | .bpDecBL w f => let b := bpArraysDecBL w f s; rangesIf (bpCheckDecBL w f s) [(b.src, b.srcBytes)]
  | .bpEncLL w f => let b := bpArraysEncLL w f s; rangesIf (bpCheckEncLL w f s) [(b.src, b.srcBytes)]
  | .bpEncLB w f => let b := bpArraysEncLB w f s; rangesIf (bpCheckEncLB w f s) [(b.src, b.srcBytes)]
  | .ddNext => rangesIf (ddNextCheck s) (inRange s)
  | .ddSkip => if s.args.a0 = 0 then [] else rangesIf (ddSkipCheck s) (inRange s)
  | .efdNext => efdReadRanges s ((checkEfdReady s).or (checkDirection s .forward))
  | .efdAdvance => efdReadRanges s ((checkEfdReady s).or (checkDirection s .forward))
  | .efdPrev => efdReadRanges s ((checkEfdReady s).or (checkDirection s .backward))
  | .efdBack => efdReadRanges s ((checkEfdReady s).or (checkDirection s .backward))
  | .efdToAfter => efdReadRanges s (checkEfdReady s)
  | .efdCurrent => efdReadRanges s (checkEfdReady s)
  | .nop | .fsSelect _ | .bpGeom _ _ | .unitReset | .deInit | .deInitMono | .deAdd | .deFinish | .ddInit | .ddInitMono
  | .gbInit | .gbInitMono | .gbAdd | .gbGet | .gbIterReset | .gbIterNext | .gwInit _ | .gwGet | .gwSet | .gwResize
  | .pgInit _ | .pgGet | .pgSet | .pgResize | .pgGrow | .pgPageBpv | .efeInit | .efeEncode | .efeFinish | .efdInit
  | .efdToBefore => []

/-- The ranges the running command may write; none for an illegal word. -/
def runningWrites (s : State) : List (Nat × Nat) :=
  match decode s.cmd with
  | .ok i => writeRanges i s
  | .error _ => []

/-- The ranges the running command may read or write. -/
def runningRanges (s : State) : List (Nat × Nat) :=
  match decode s.cmd with
  | .ok i => writeRanges i s ++ readRanges i s
  | .error _ => []

/-- The operand and stream registers with free values: what the running command uses, and what they hold after it,
when the host writes one of them while BUSY (R590 item 2; log 7). -/
def State.havocOperands (s : State) : State :=
  { (s.drew 12) with
    args := { a0 := s.free 0, a1 := s.free 1, a2 := s.free 2, a3 := s.free 3, a4 := s.free 4, a5 := s.free 5,
              a6 := s.free 6, a7 := s.free 7 }
    inPtr := s.free 8, inEnd := s.free 9, outPtr := s.free 10, outEnd := s.free 11 }

/-- The result registers with free values (R590 item 4, 20_memory R109; log 8). -/
def State.havocResults (s : State) : State :=
  { (s.drew 4) with res := { r0 := s.free 0, r1 := s.free 1, r2 := s.free 2, r3 := s.free 3 } }

/-- The host's write of an operand or stream register while a command runs (log 7). -/
def State.disturbOperands (s : State) : State :=
  { s.havocOperands with hazard := { s.hazard with operands := true } }

/-- The host's store to bytes the running command uses: all its ranges hold free values from now on (log 8). -/
def State.disturbRanges (s : State) : State :=
  let rs := runningRanges s
  { (s.havocRanges rs) with hazard := { s.hazard with ranges := s.hazard.ranges ++ rs } }

/-- What the hazards leave at the end of the command: free values in the registers and bytes they concern; the hazards
are then past (log 7, log 8). Without a hazard nothing changes. -/
def State.settleHazards (s : State) : State :=
  let a := if s.hazard.operands then s.havocOperands else s
  let b := if s.hazard.ranges.isEmpty then a else (a.havocRanges s.hazard.ranges).havocResults
  { b with hazard := {} }

end Sys2Proof.Machine
end

