-- ==== Sys2Proof/Machine/Window.lean ====
section
/-! DEFINITION. The host's side: the register window (spec/10_state.md R31 to R54), resets (spec/70_reset_and_hazards.md
R580 to R582), and the host's accesses to the window and to the data memory (spec/20_memory.md R109,
spec/30_encoding.md R190). -/

namespace Sys2Proof.Machine

/-! ## The register map (10_state R45) -/

/-- The registers of the window. -/
inductive WinReg where
  | id | version | cmd | status | ctrl | statusClr | irqStatus | errInfo
  | arg0 | arg1 | arg2 | arg3 | arg4 | arg5 | arg6 | arg7
  | res0 | res1 | res2 | res3
  | inPtr | inEnd | outPtr | outEnd
  | pMemBytes | pMax24 | pMax48 | pGbMaxBlocks | pGbStoreWords | pGwStoreWords | pPgMaxPages | pPgStoreWords
  | pEfMaxValues
  | deStateR | deBlockSize | dePending | deOrd
  | ddStateR | ddBlockSize | ddValueCount | ddOrd | ddOff
  | gbStateR | gbPageSize | gbSize | gbNblocks | gbStoreUsed | gbIterPos | gbIterEnd
  | gwStateR | gwSize | gwBpv | gwStoreUsed
  | pgStateR | pgSize | pgPageShift | pgBpv | pgNPages | pgStoreUsed
  | efeStateR | efeN | efeU | efeI | efeL | efeE | efeNidx | efeNumEnc | efeLast | efeUpperBase | efeLowerBase
  | efeIndexBase | efeNextEntry
  | efdStateR | efdN | efdU | efdI | efdL | efdIndex | efdHighPos | efdUpperBase | efdLowerBase | efdIndexBase | efdE
deriving DecidableEq, Repr

/-- The register at an offset of the window (10_state R45); `none` for a reserved offset (R32). -/
def winReg : Nat → Option WinReg
  | 0x000 => some .id
  | 0x008 => some .version
  | 0x010 => some .cmd
  | 0x018 => some .status
  | 0x020 => some .ctrl
  | 0x028 => some .statusClr
  | 0x030 => some .irqStatus
  | 0x038 => some .errInfo
  | 0x040 => some .arg0
  | 0x048 => some .arg1
  | 0x050 => some .arg2
  | 0x058 => some .arg3
  | 0x060 => some .arg4
  | 0x068 => some .arg5
  | 0x070 => some .arg6
  | 0x078 => some .arg7
  | 0x080 => some .res0
  | 0x088 => some .res1
  | 0x090 => some .res2
  | 0x098 => some .res3
  | 0x0A0 => some .inPtr
  | 0x0A8 => some .inEnd
  | 0x0B0 => some .outPtr
  | 0x0B8 => some .outEnd
  | 0x0C0 => some .pMemBytes
  | 0x0C8 => some .pMax24
  | 0x0D0 => some .pMax48
  | 0x0D8 => some .pGbMaxBlocks
  | 0x0E0 => some .pGbStoreWords
  | 0x0E8 => some .pGwStoreWords
  | 0x0F0 => some .pPgMaxPages
  | 0x0F8 => some .pPgStoreWords
  | 0x100 => some .pEfMaxValues
  | 0x200 => some .deStateR
  | 0x208 => some .deBlockSize
  | 0x210 => some .dePending
  | 0x218 => some .deOrd
  | 0x240 => some .ddStateR
  | 0x248 => some .ddBlockSize
  | 0x250 => some .ddValueCount
  | 0x258 => some .ddOrd
  | 0x260 => some .ddOff
  | 0x280 => some .gbStateR
  | 0x288 => some .gbPageSize
  | 0x290 => some .gbSize
  | 0x298 => some .gbNblocks
  | 0x2A0 => some .gbStoreUsed
  | 0x2A8 => some .gbIterPos
  | 0x2B0 => some .gbIterEnd
  | 0x2C0 => some .gwStateR
  | 0x2C8 => some .gwSize
  | 0x2D0 => some .gwBpv
  | 0x2D8 => some .gwStoreUsed
  | 0x300 => some .pgStateR
  | 0x308 => some .pgSize
  | 0x310 => some .pgPageShift
  | 0x318 => some .pgBpv
  | 0x320 => some .pgNPages
  | 0x328 => some .pgStoreUsed
  | 0x340 => some .efeStateR
  | 0x348 => some .efeN
  | 0x350 => some .efeU
  | 0x358 => some .efeI
  | 0x360 => some .efeL
  | 0x368 => some .efeE
  | 0x370 => some .efeNidx
  | 0x378 => some .efeNumEnc
  | 0x380 => some .efeLast
  | 0x388 => some .efeUpperBase
  | 0x390 => some .efeLowerBase
  | 0x398 => some .efeIndexBase
  | 0x3A0 => some .efeNextEntry
  | 0x3C0 => some .efdStateR
  | 0x3C8 => some .efdN
  | 0x3D0 => some .efdU
  | 0x3D8 => some .efdI
  | 0x3E0 => some .efdL
  | 0x3E8 => some .efdIndex
  | 0x3F0 => some .efdHighPos
  | 0x3F8 => some .efdUpperBase
  | 0x400 => some .efdLowerBase
  | 0x408 => some .efdIndexBase
  | 0x410 => some .efdE
  | _ => none

/-- The value a register reads as while the engine is idle (10_state R31 to R53). -/
def regValue (s : State) : WinReg → Word
  | .id => 0x42503634
  | .version => 0x00010000
  | .cmd => 0
  | .status => statusWord s.status
  | .ctrl => ctrlWord s.ctrl
  | .statusClr => 0
  | .irqStatus => irqWord s.irq
  | .errInfo => s.errInfo
  | .arg0 => s.args.a0
  | .arg1 => s.args.a1
  | .arg2 => s.args.a2
  | .arg3 => s.args.a3
  | .arg4 => s.args.a4
  | .arg5 => s.args.a5
  | .arg6 => s.args.a6
  | .arg7 => s.args.a7
  | .res0 => s.res.r0
  | .res1 => s.res.r1
  | .res2 => s.res.r2
  | .res3 => s.res.r3
  | .inPtr => s.inPtr
  | .inEnd => s.inEnd
  | .outPtr => s.outPtr
  | .outEnd => s.outEnd
  | .pMemBytes => u64 s.cfg.memBytes
  | .pMax24 => u64 s.cfg.max24
  | .pMax48 => u64 s.cfg.max48
  | .pGbMaxBlocks => u64 s.cfg.gbMaxBlocks
  | .pGbStoreWords => u64 s.cfg.gbStoreWords
  | .pGwStoreWords => u64 s.cfg.gwStoreWords
  | .pPgMaxPages => u64 s.cfg.pgMaxPages
  | .pPgStoreWords => u64 s.cfg.pgStoreWords
  | .pEfMaxValues => u64 s.cfg.efMaxValues
  | .deStateR => stateWord (deStateCode s.de.state) s.de.mono
  | .deBlockSize => s.de.blockSize
  | .dePending => s.de.pending
  | .deOrd => s.de.ord
  | .ddStateR => stateWord (ddStateCode s.dd.state) s.dd.mono
  | .ddBlockSize => s.dd.blockSize
  | .ddValueCount => s.dd.count
  | .ddOrd => s.dd.ord
  | .ddOff => s.dd.off
  | .gbStateR => stateWord (unitStateCode s.gb.state) s.gb.mono
  | .gbPageSize => s.gb.pageSize
  | .gbSize => s.gb.size
  | .gbNblocks => u64 (gbNblocks s.gb)
  | .gbStoreUsed => u64 (gbUsed s.gb)
  | .gbIterPos => s.gb.ipos
  | .gbIterEnd => s.gb.iend
  | .gwStateR => stateWord (unitStateCode s.gw.state) false
  | .gwSize => s.gw.size
  | .gwBpv => s.gw.bpv
  | .gwStoreUsed => u64 (gwUsed s.gw)
  | .pgStateR => stateWord (unitStateCode s.pg.state) false
  | .pgSize => s.pg.size
  | .pgPageShift => s.pg.shift
  | .pgBpv => s.pg.bpv0
  | .pgNPages => u64 (pgNp s.pg)
  | .pgStoreUsed => u64 (pgUsed s.pg)
  | .efeStateR => stateWord (efeStateCode s.efe.state) false
  | .efeN => s.efe.n
  | .efeU => s.efe.u
  | .efeI => s.efe.i
  | .efeL => s.efe.l
  | .efeE => s.efe.e
  | .efeNidx => s.efe.nidx
  | .efeNumEnc => s.efe.numEnc
  | .efeLast => s.efe.last
  | .efeUpperBase => s.efe.ub
  | .efeLowerBase => s.efe.lb
  | .efeIndexBase => s.efe.ib
  | .efeNextEntry => s.efe.next
  | .efdStateR => stateWord (unitStateCode s.efd.state) (s.efd.dir == .backward)
  | .efdN => s.efd.n
  | .efdU => s.efd.u
  | .efdI => s.efd.i
  | .efdL => s.efd.l
  | .efdIndex => u64i s.efd.idx
  | .efdHighPos => u64i s.efd.hp
  | .efdUpperBase => s.efd.ub
  | .efdLowerBase => s.efd.lb
  | .efdIndexBase => s.efd.ib
  | .efdE => s.efd.e

/-- The registers whose reads are exact also while a command runs (10_state R45); the operand registers, which the
engine only reads (R40), among them (log 9). -/
def exactWhileBusy : WinReg → Bool
  | .id | .version | .cmd | .status | .ctrl | .statusClr | .irqStatus => true
  | .arg0 | .arg1 | .arg2 | .arg3 | .arg4 | .arg5 | .arg6 | .arg7 => true
  | .pMemBytes | .pMax24 | .pMax48 | .pGbMaxBlocks | .pGbStoreWords | .pGwStoreWords | .pPgMaxPages
  | .pPgStoreWords | .pEfMaxValues => true
  | .errInfo | .res0 | .res1 | .res2 | .res3 | .inPtr | .inEnd | .outPtr | .outEnd => false
  | .deStateR | .deBlockSize | .dePending | .deOrd => false
  | .ddStateR | .ddBlockSize | .ddValueCount | .ddOrd | .ddOff => false
  | .gbStateR | .gbPageSize | .gbSize | .gbNblocks | .gbStoreUsed | .gbIterPos | .gbIterEnd => false
  | .gwStateR | .gwSize | .gwBpv | .gwStoreUsed => false
  | .pgStateR | .pgSize | .pgPageShift | .pgBpv | .pgNPages | .pgStoreUsed => false
  | .efeStateR | .efeN | .efeU | .efeI | .efeL | .efeE | .efeNidx | .efeNumEnc | .efeLast | .efeUpperBase
  | .efeLowerBase | .efeIndexBase | .efeNextEntry => false
  | .efdStateR | .efdN | .efdU | .efdI | .efdL | .efdIndex | .efdHighPos | .efdUpperBase | .efdLowerBase
  | .efdIndexBase | .efdE => false

/-! ## Resets (70_reset R580 to R582) -/

/-- The reset state of this device; the data memory and the model's own record of the host's side stay (R580, R581). -/
def State.toReset (s : State) : State :=
  { State.resetOf s.cfg with mem := s.mem, inputs := s.inputs, hostData := s.hostData, fresh := s.fresh }

/-- A reset, hardware or soft (R580, R582): a command that runs is abandoned, and the bytes it could have written hold
free values (log 14). -/
def State.doReset (s : State) : State :=
  if s.status.busy then (s.havocRanges (runningWrites s)).toReset else s.toReset

/-! ## Host accesses to the window -/

/-- A load of a register: its value is what the host gets (10_state R45); a free value where the read is unspecified
because a command runs (log 9). -/
def readReg (r : WinReg) (s : State) : State :=
  if s.status.busy && !exactWhileBusy r then { (s.drew 1) with hostData := s.free 0 }
  else { s with hostData := regValue s r }

/-- A write of an operand or stream register: the register's new contents, or the hazard of R590 item 2 while a command
runs. -/
def writeOperand (s : State) (t : State) : State := if s.status.busy then s.disturbOperands else t

/-- A store to a register (10_state R33 to R46): a read-only register ignores it. -/
def writeReg (r : WinReg) (v : Word) (s : State) : State :=
  match r with
  | .cmd => if s.status.busy then { s with status := statusOverrun s.status } else s.accept v
  | .ctrl => if v.getLsbD 63 then s.doReset else { s with ctrl := ctrlWrite v }
  | .statusClr => { s with status := statusClear s.status v }
  | .irqStatus => { s with irq := irqClear s.irq v }
  | .arg0 => writeOperand s { s with args := { s.args with a0 := v } }
  | .arg1 => writeOperand s { s with args := { s.args with a1 := v } }
  | .arg2 => writeOperand s { s with args := { s.args with a2 := v } }
  | .arg3 => writeOperand s { s with args := { s.args with a3 := v } }
  | .arg4 => writeOperand s { s with args := { s.args with a4 := v } }
  | .arg5 => writeOperand s { s with args := { s.args with a5 := v } }
  | .arg6 => writeOperand s { s with args := { s.args with a6 := v } }
  | .arg7 => writeOperand s { s with args := { s.args with a7 := v } }
  | .inPtr => writeOperand s { s with inPtr := v }
  | .inEnd => writeOperand s { s with inEnd := v }
  | .outPtr => writeOperand s { s with outPtr := v }
  | .outEnd => writeOperand s { s with outEnd := v }
  | .id | .version | .status | .errInfo | .res0 | .res1 | .res2 | .res3 => s
  | .pMemBytes | .pMax24 | .pMax48 | .pGbMaxBlocks | .pGbStoreWords | .pGwStoreWords | .pPgMaxPages
  | .pPgStoreWords | .pEfMaxValues => s
  | .deStateR | .deBlockSize | .dePending | .deOrd => s
  | .ddStateR | .ddBlockSize | .ddValueCount | .ddOrd | .ddOff => s
  | .gbStateR | .gbPageSize | .gbSize | .gbNblocks | .gbStoreUsed | .gbIterPos | .gbIterEnd => s
  | .gwStateR | .gwSize | .gwBpv | .gwStoreUsed => s
  | .pgStateR | .pgSize | .pgPageShift | .pgBpv | .pgNPages | .pgStoreUsed => s
  | .efeStateR | .efeN | .efeU | .efeI | .efeL | .efeE | .efeNidx | .efeNumEnc | .efeLast | .efeUpperBase
  | .efeLowerBase | .efeIndexBase | .efeNextEntry => s
  | .efdStateR | .efdN | .efdU | .efdI | .efdL | .efdIndex | .efdHighPos | .efdUpperBase | .efdLowerBase
  | .efdIndexBase | .efdE => s

/-- The offset of a platform address in the window at `REG_BASE` (10_state R32). -/
def windowOffset (p : Params) (addr : Word) : Nat := (addr - p.regBase).toNat

/-- An access to the window: only a naturally aligned 64-bit one has a meaning (10_state R32; log 16); at a reserved
offset it does what `reserved` says. -/
def windowAccess (s : State) (width : Nat) (addr : Word) (reserved : State) (act : WinReg → State) :
    Host.Outcome State Fault Refusal :=
  let off := windowOffset s.cfg addr
  if 4096 ≤ off then .refused .addressOutsideWindow
  else if width ≠ 8 ∨ addr.toNat % 8 ≠ 0 then .refused .windowAccessNotAligned64
  else match winReg off with
    | none => .next reserved
    | some r => .next (act r)

/-! ## Host accesses to the data memory (20_memory R100, R109) -/

/-- The value a host load of `n` bytes returns: a free value if a running command reads or writes one of them (70_reset
R590 item 4, R109; log 8). -/
def hostLoad (s : State) (a n : Nat) : State :=
  if s.status.busy && (runningRanges s).any (rangesMeet (a, n)) then
    { (s.drew 1) with hostData := u64 ((s.free 0).toNat % 2 ^ (8 * n)) }
  else { s with hostData := u64 (memRead s.mem a n) }

/-- A host store of `n` bytes: the bytes, or the hazard of R590 item 4 if a running command uses one of them (log 8). -/
def hostStore (s : State) (a n v : Nat) : State :=
  let t := { s with mem := memWrite s.mem a n v }
  if s.status.busy && (runningRanges s).any (rangesMeet (a, n)) then t.disturbRanges else t

/-- An access to `n` bytes of data memory: the memory has no address at or past `MEM_BYTES` (R100; log 16). -/
def dataAccess (s : State) (a n : Nat) (t : State) : Host.Outcome State Fault Refusal :=
  if s.cfg.memBytes < a + n then .fault (.hostDataAddressOutside a) else .next t

/-- An access of the host. -/
def hostStep (a : HostAccess) (s : State) : Host.Outcome State Fault Refusal :=
  match a with
  | .regLoad w addr => windowAccess s w addr { s with hostData := 0 } (fun r => readReg r s)
  | .regStore w addr v => windowAccess s w addr s (fun r => writeReg r v s)
  | .memLoadWord addr => dataAccess s addr 8 (hostLoad s addr 8)
  | .memLoadByte addr => dataAccess s addr 1 (hostLoad s addr 1)
  | .memStoreWord addr v => dataAccess s addr 8 (hostStore s addr 8 v.toNat)
  | .memStoreByte addr v => dataAccess s addr 1 (hostStore s addr 1 v.toNat)

end Sys2Proof.Machine
end

