-- ==== Sys2Proof/Machine/Engine.lean ====
section
/-! DEFINITION. The engine's turn (spec/10_state.md R30, R35, spec/60_exceptions.md R535, R536, spec/30_encoding.md
R142): it decodes the command word it holds, executes it, and completes it. -/

namespace Sys2Proof.Machine

/-- An outcome with its next state changed. -/
def mapNext (f : State → State) : Host.Outcome State Fault Refusal → Host.Outcome State Fault Refusal
  | .next t => .next (f t)
  | .fault r => .fault r
  | .refused r => .refused r

/-- An illegal word completes with `IllegalCommand`, ERRINFO = the whole word, and no other effect (30_encoding R142). -/
def illegalCommand (s : State) : State := s.completeErr .illegalCommand s.cmd

/-- The running command from its acceptance to its completion, and what the hazards committed while it ran leave
(log 7, log 8). -/
def runCommand (s : State) : Host.Outcome State Fault Refusal :=
  match decode s.cmd with
  | .ok i => mapNext State.settleHazards (exec i s)
  | .error _ => .next (illegalCommand s).settleHazards

/-- A turn of the engine: the running command completes; an idle engine stays idle (60_exceptions R555). -/
def engineTurn (s : State) : Host.Outcome State Fault Refusal := if s.status.busy then runCommand s else .next s

/-- The inputs with a turn of the engine in front: an empty list gives the engine its turn anyway. -/
def engineFirst : List Input → List Input
  | [] => []
  | e :: t => .engine :: e :: t

/-- The machine with the command word `c` accepted (60_exceptions R536), the engine's turn next. -/
def State.issue (s : State) (c : Word) : State := { s.accept c with inputs := engineFirst s.inputs }

/-- An access of the host in the same step as the engine completes the running command: the access acts first, so that a
bit the engine sets stays 1 against a 1 the host writes (60_exceptions R546; log 6). An idle engine completes nothing: a
command that the access itself issues is not completed in this step. -/
def hostAndEngineStep (a : HostAccess) (s : State) : Host.Outcome State Fault Refusal :=
  if s.status.busy then
    match hostStep a s with
    | .next t => engineTurn t
    | .fault r => .fault r
    | .refused r => .refused r
  else hostStep a s

/-- The machine's step on its input list: the next input, or a turn of the engine when there is none (log 5, log 6). -/
def stepInputs (s : State) : Host.Outcome State Fault Refusal :=
  match s.inputs with
  | [] => engineTurn s
  | .engine :: t => engineTurn { s with inputs := t }
  | .host a :: t => hostStep a { s with inputs := t }
  | .hostAndEngine a :: t => hostAndEngineStep a { s with inputs := t }
  | .hardReset :: t => .next ({ s with inputs := t }).doReset

end Sys2Proof.Machine
end

