-- ==== Sys2Proof/Machine/Step.lean ====
section
/-! DEFINITION. One step of the machine (spec/10_state.md R30), and how a command word is put where the next step runs
it (log 5). -/

namespace Sys2Proof.Machine

/-- The state in which the engine holds the command word `w` (of `nbits` bits, the others 0) and has the next turn: the
word is accepted as a host write to CMD would be (60_exceptions R536). -/
def State.withFetchWord (s : State) (nbits w : Nat) : State := s.issue (Sys2Proof.tableWord nbits w)

/-- One step of the machine. -/
def step (s : State) : Host.Outcome State Fault Refusal := stepInputs s

end Sys2Proof.Machine
end

