-- ==== Sys2Proof/Safety.lean ====
section
/-! DEFINITION. What counts as a good state and a good run, in the terms the statements use: what a reader sees of the
data memory and of the hidden arrays, and the invariants the spec gives the machine's state (spec/10_state.md R47 to
R53, spec/43_delta_decoder.md R300, spec/20_memory.md R100, R105). -/

namespace Sys2Proof.Machine

/-! ## Views of the data memory -/

/-- Every byte outside the `n` bytes from `a` on reads in `m'` as it reads in `m`. -/
def sameOutside (m m' : Memory) (a n : Nat) : Prop := ∀ x, x < a ∨ a + n ≤ x → readByte m' x = readByte m x

/-- Every byte outside the listed ranges (start, length) reads in `m'` as it reads in `m`. -/
def sameOutsideRanges (m m' : Memory) (rs : List (Nat × Nat)) : Prop :=
  ∀ x, (∀ r ∈ rs, x < r.1 ∨ r.1 + r.2 ≤ x) → readByte m' x = readByte m x

/-- The bytes `bs` lie in the memory from `a` on. -/
def bytesAt (m : Memory) (a : Nat) (bs : List Byte) : Prop := ∀ k, k < bs.length → readByte m (a + k) = bs.getD k 0

/-- Bit `t` of the bit stream whose first byte is at `a`, the most significant bit of each byte first (30_encoding
R150, R151, 20_memory R102). -/
def streamBit (m : Memory) (a t : Nat) : Bool := (readByte m (a + t / 8)).getLsbD (7 - t % 8)

/-- Every listed range that is not empty lies in the data memory. -/
abbrev rangesInside (p : Params) (rs : List (Nat × Nat)) : Prop := ∀ r ∈ rs, r.2 = 0 ∨ r.1 + r.2 ≤ p.memBytes

/-! ## Invariants -/

/-- Sparse cells in canonical form below a bound: keys rising, values not 0 (log 21). -/
abbrev cellsOk (n : Nat) (m : List (Nat × Word)) : Prop :=
  m.Pairwise (fun x y => x.1 < y.1) ∧ ∀ c ∈ m, c.2 ≠ 0 ∧ c.1 < n

/-- The Elias-Fano encoder while it encodes: the parameters of its context are those of R180, its counts are within
their bounds, and its regions lie in the data memory (10_state R52, 46 R433, R434, 20_memory R105). -/
abbrev EfeInv (p : Params) (c : EfEncoder) : Prop :=
  c.state = .encoding →
    (c.u.toNat ≤ 2 ^ 63 - 1 ∧ 2 ≤ c.i.toNat ∧ c.n.toNat ≤ p.efMaxValues) ∧
    (c.l.toNat = (efParamsOf (efeLayout c)).l ∧ c.e.toNat = (efParamsOf (efeLayout c)).e ∧
      c.nidx.toNat = (efParamsOf (efeLayout c)).nidx) ∧
    (c.numEnc.toNat ≤ c.n.toNat ∧ c.last.toNat ≤ c.u.toNat ∧ c.next.toNat ≤ c.nidx.toNat) ∧
    rangesInside p (efRegions (efeLayout c))

/-- The Elias-Fano decoder while it is open: the parameters of its context are those of R180 and its regions lie in the
data memory (10_state R53, 47 R475, 20_memory R105). -/
abbrev EfdInv (p : Params) (c : EfDecoder) : Prop :=
  c.state = .ready →
    (c.u.toNat ≤ 2 ^ 63 - 1 ∧ 2 ≤ c.i.toNat ∧ c.n.toNat ≤ p.efMaxValues) ∧
    (c.l.toNat = (efParamsOf (efdLayout c)).l ∧ c.e.toNat = (efParamsOf (efdLayout c)).e) ∧
    rangesInside p (efRegions (efdLayout c))

/-- The data memory is in its canonical form and holds no address at or past `MEM_BYTES`, and everything that may still
write it lies inside it (20_memory R100, R105). -/
abbrev MemoryInv (s : State) : Prop :=
  s.cfg.legal ∧ s.mem.wf ∧ (∀ c ∈ s.mem, c.1 < s.cfg.memBytes) ∧ rangesInside s.cfg s.hazard.ranges ∧
    EfeInv s.cfg s.efe ∧ EfdInv s.cfg s.efd

/-- The host can commit a hazard only against a running command (70_reset R590). -/
abbrev HazardInv (s : State) : Prop := s.status.busy = false → s.hazard = {}

/-- The delta encoder (10_state R47, 42 R260, R261): outside UNINIT the block size is legal, the pending count is below
it and is the count of values added modulo the block size until the writer is finished; BUFFERING is the state with
values pending. -/
abbrev DeInv (d : DeltaEncoder) : Prop :=
  if d.state = .uninit then d = {}
  else legalBlockSize d.blockSize.toNat ∧ d.buf.length = d.blockSize.toNat ∧ d.pending.toNat < d.blockSize.toNat ∧
    (d.state = .buffering ↔ 0 < d.pending.toNat) ∧
    (d.state ≠ .finished → d.ord.toNat % d.blockSize.toNat = d.pending.toNat)

/-- The delta decoder while READY (43 R300). -/
abbrev DdInv (d : DeltaDecoder) : Prop :=
  d.state = .ready →
    legalBlockSize d.blockSize.toNat ∧ d.buf.length = d.blockSize.toNat ∧ d.ord.toNat ≤ d.count.toNat ∧
    d.off.toNat ≤ d.blockSize.toNat ∧
    (if d.off = d.blockSize then d.ord.toNat % d.blockSize.toNat = 0
     else d.ord.toNat % d.blockSize.toNat = d.off.toNat)

/-- The growable append buffer while READY (10_state R49, 44 R340, R343, R348). -/
abbrev GbInv (p : Params) (g : GrowableBuffer) : Prop :=
  g.state = .ready →
    legalBlockSize g.pageSize.toNat ∧ g.pend.length = g.pageSize.toNat ∧
    (gbNblocks g * g.pageSize.toNat ≤ g.size.toNat ∧
      g.size.toNat < gbNblocks g * g.pageSize.toNat + g.pageSize.toNat) ∧
    (∀ b ∈ g.blk, b.res.length = g.pageSize.toNat ∧ b.bits = residueWidth b.res ∧ b.bits ≤ 64) ∧
    gbNblocks g ≤ p.gbMaxBlocks ∧ gbUsed g ≤ p.gbStoreWords ∧
    (g.ipos.toNat ≤ g.iend.toNat ∧ g.iend.toNat ≤ g.size.toNat)

/-- The growable writer while READY (10_state R50, 45 R380). -/
abbrev GwInv (p : Params) (g : GrowableWriter) : Prop :=
  g.state = .ready →
    (1 ≤ g.bpv.toNat ∧ g.bpv.toNat ≤ 64) ∧ gwUsed g ≤ p.gwStoreWords ∧ cellsOk g.size.toNat g.val ∧
    ∀ c ∈ g.val, c.2.toNat ≤ maxValue g.bpv.toNat

/-- A page of the paged array of `len` values (10_state R51, 45 R390). -/
abbrev PgPageInv (len : Nat) (q : PgPage) : Prop :=
  (1 ≤ q.w ∧ q.w ≤ 64) ∧ cellsOk len q.val ∧ ∀ c ∈ q.val, c.2.toNat ≤ maxValue q.w

/-- The paged array while READY (10_state R51, 45 R390 to R392). -/
abbrev PgInv (p : Params) (g : PagedArray) : Prop :=
  g.state = .ready →
    (6 ≤ g.shift.toNat ∧ g.shift.toNat ≤ 30) ∧ (1 ≤ g.bpv0.toNat ∧ g.bpv0.toNat ≤ 64) ∧
    pgNp g = pgPageCount g.size.toNat g.shift.toNat ∧ pgNp g ≤ p.pgMaxPages ∧ pgUsed g ≤ p.pgStoreWords ∧
    ∀ k, k < pgNp g → PgPageInv (pgPageLen g.size.toNat g.shift.toNat k) (pgPage g k)

/-! ## What the host does next -/

/-- The next input is the host's 64-bit store of `v` to the register at offset `off` of the window (10_state R32); the
window is at a multiple of 8 (log 3). -/
def nextIsStore (s : State) (off : Nat) (v : Word) (rest : List Input) : Prop :=
  s.cfg.regBase.toNat % 8 = 0 ∧ s.inputs = .host (.regStore 8 (s.cfg.regBase + u64 off) v) :: rest

/-- The next input is the host's 64-bit load of the register at offset `off` of the window (10_state R32). -/
def nextIsLoad (s : State) (off : Nat) (rest : List Input) : Prop :=
  s.cfg.regBase.toNat % 8 = 0 ∧ s.inputs = .host (.regLoad 8 (s.cfg.regBase + u64 off)) :: rest

/-- The next input is the same store in the step in which the engine completes the running command (60_exceptions
R546; log 6). -/
def nextIsStoreAtCompletion (s : State) (off : Nat) (v : Word) (rest : List Input) : Prop :=
  s.cfg.regBase.toNat % 8 = 0 ∧ s.inputs = .hostAndEngine (.regStore 8 (s.cfg.regBase + u64 off) v) :: rest

/-- The host's store of `v` at offset `off` arrives in the next step, alone or with a completion. -/
def storeArrives (s : State) (off : Nat) (v : Word) : Prop :=
  ∃ rest, nextIsStore s off v rest ∨ nextIsStoreAtCompletion s off v rest

/-- The next input resets the machine: the hardware reset input, or a host store to CTRL with bit 63 set, alone or at a
completion (70_reset R580, R582). -/
def nextIsReset (s : State) (rest : List Input) : Prop :=
  s.inputs = .hardReset :: rest ∨
    ∃ v : Word, v.getLsbD 63 = true ∧ (nextIsStore s 0x020 v rest ∨ nextIsStoreAtCompletion s 0x020 v rest)

/-! ## The register map, written out from the table of 10_state R45 -/

/-- Every offset of the table of R45; the other multiples of 8 below 4096 are reserved (R32). -/
def windowOffsets : List Nat :=
  [0x000, 0x008, 0x010, 0x018, 0x020, 0x028, 0x030, 0x038, 0x040, 0x048, 0x050, 0x058, 0x060, 0x068, 0x070, 0x078,
    0x080, 0x088, 0x090, 0x098, 0x0A0, 0x0A8, 0x0B0, 0x0B8, 0x0C0, 0x0C8, 0x0D0, 0x0D8, 0x0E0, 0x0E8, 0x0F0, 0x0F8,
    0x100] ++
  [0x200, 0x208, 0x210, 0x218, 0x240, 0x248, 0x250, 0x258, 0x260] ++
  [0x280, 0x288, 0x290, 0x298, 0x2A0, 0x2A8, 0x2B0, 0x2C0, 0x2C8, 0x2D0, 0x2D8] ++
  [0x300, 0x308, 0x310, 0x318, 0x320, 0x328] ++
  [0x340, 0x348, 0x350, 0x358, 0x360, 0x368, 0x370, 0x378, 0x380, 0x388, 0x390, 0x398, 0x3A0] ++
  [0x3C0, 0x3C8, 0x3D0, 0x3D8, 0x3E0, 0x3E8, 0x3F0, 0x3F8, 0x400, 0x408, 0x410]

/-- What the registers of the delta codec's contexts read (R47, R48): bits [2:0] of a state register are the state's
code, bit 8 (weight 256) the variant. -/
def deltaRegisters (s : State) : List (Nat × Word) :=
  [(0x200, u64 ((match s.de.state with | .uninit => 0 | .idle => 1 | .buffering => 2 | .finished => 3) +
      if s.de.mono then 256 else 0)),
    (0x208, s.de.blockSize), (0x210, s.de.pending), (0x218, s.de.ord),
    (0x240, u64 ((match s.dd.state with | .uninit => 0 | .ready => 1 | .poisoned => 7) +
      if s.dd.mono then 256 else 0)),
    (0x248, s.dd.blockSize), (0x250, s.dd.count), (0x258, s.dd.ord), (0x260, s.dd.off)]

/-- What the registers of the growable buffer, the growable writer and the paged array read (R49 to R51). -/
def arrayRegisters (s : State) : List (Nat × Word) :=
  [(0x280, u64 ((match s.gb.state with | .uninit => 0 | .ready => 1) + if s.gb.mono then 256 else 0)),
    (0x288, s.gb.pageSize), (0x290, s.gb.size), (0x298, u64 s.gb.blk.length),
    (0x2A0, u64 (s.gb.blk.map (fun b => (s.gb.pageSize.toNat * b.bits + 63) / 64)).sum), (0x2A8, s.gb.ipos),
    (0x2B0, s.gb.iend),
    (0x2C0, u64 (match s.gw.state with | .uninit => 0 | .ready => 1)), (0x2C8, s.gw.size), (0x2D0, s.gw.bpv),
    (0x2D8, u64 ((s.gw.size.toNat * s.gw.bpv.toNat + 63) / 64)),
    (0x300, u64 (match s.pg.state with | .uninit => 0 | .ready => 1)), (0x308, s.pg.size), (0x310, s.pg.shift),
    (0x318, s.pg.bpv0), (0x320, u64 s.pg.pages.length),
    (0x328, u64 ((List.range s.pg.pages.length).map (fun k =>
      (min (2 ^ s.pg.shift.toNat) (s.pg.size.toNat - k * 2 ^ s.pg.shift.toNat) * (pgPage s.pg k).w + 63) / 64)).sum)]

/-- What the registers of the Elias-Fano contexts read (R52, R53). -/
def eliasFanoRegisters (s : State) : List (Nat × Word) :=
  [(0x340, u64 (match s.efe.state with | .uninit => 0 | .encoding => 1 | .finished => 3)), (0x348, s.efe.n),
    (0x350, s.efe.u), (0x358, s.efe.i), (0x360, s.efe.l), (0x368, s.efe.e), (0x370, s.efe.nidx), (0x378, s.efe.numEnc),
    (0x380, s.efe.last), (0x388, s.efe.ub), (0x390, s.efe.lb), (0x398, s.efe.ib), (0x3A0, s.efe.next),
    (0x3C0, u64 ((match s.efd.state with | .uninit => 0 | .ready => 1) +
      match s.efd.dir with | .forward => 0 | .backward => 256)),
    (0x3C8, s.efd.n), (0x3D0, s.efd.u), (0x3D8, s.efd.i), (0x3E0, s.efd.l), (0x3E8, BitVec.ofInt 64 s.efd.idx),
    (0x3F0, BitVec.ofInt 64 s.efd.hp), (0x3F8, s.efd.ub), (0x400, s.efd.lb), (0x408, s.efd.ib), (0x410, s.efd.e)]

/-! ## Binary32, from its interchange format (00_scope R14) -/

/-- The pattern is of a finite value: its exponent field is not all ones. -/
abbrev f32Finite (x : BitVec 32) : Prop := x.extractLsb' 23 8 ≠ 255

/-- The value of a finite pattern in units of 2^-149. -/
def f32Units (x : BitVec 32) : Int :=
  let e := (x.extractLsb' 23 8).toNat
  let f := (x.extractLsb' 0 23).toNat
  let m : Nat := if e = 0 then f else (2 ^ 23 + f) * 2 ^ (e - 1)
  if x.getLsbD 31 then -(m : Int) else (m : Int)

/-- `r` is the integer nearest to `num / den` (`den` not 0), ties to even. -/
abbrev nearestEven (num : Int) (den : Nat) (r : Int) : Prop :=
  (2 * r - 1) * (den : Int) ≤ 2 * num ∧ 2 * num ≤ (2 * r + 1) * (den : Int) ∧
    (2 * num = (2 * r - 1) * (den : Int) ∨ 2 * num = (2 * r + 1) * (den : Int) → r % 2 = 0)

/-- `x` is the binary32 value nearest to `num / den` (`den` not 0), ties to even, no flush of subnormals, an infinity on
overflow: a magnitude that fits in 24 bits above 2^(k-149), the least such `k`, is rounded to a multiple of it. -/
def f32Nearest (num : Int) (den : Nat) (x : BitVec 32) : Prop :=
  if (2 ^ 128 - 2 ^ 103) * den ≤ num.natAbs then x = if num < 0 then 0xFF800000 else 0x7F800000
  else f32Finite x ∧ ∃ m k : Nat,
    (k = 0 ∨ 2 ^ (23 + k) * den ≤ num.natAbs * 2 ^ 149) ∧ num.natAbs * 2 ^ 149 < 2 ^ (24 + k) * den ∧
    nearestEven ((num.natAbs : Int) * 2 ^ 149) (2 ^ k * den) m ∧
    f32Units x = if num < 0 then -((m * 2 ^ k : Nat) : Int) else ((m * 2 ^ k : Nat) : Int)

/-- `avg` is the average of R269 and R342 of a block of `c` values from `first` to `last`: +0.0 for one value or for equal
ends, else the quotient of the two numbers, each rounded to binary32. -/
def isBlockAverage (first last : Word) (c : Nat) (avg : BitVec 32) : Prop :=
  (c = 1 ∨ first = last → avg = 0) ∧
  (2 ≤ c → ∃ y z : BitVec 32, f32Nearest (last - first).toInt 1 y ∧ f32Nearest ((c : Int) - 1) 1 z ∧
    f32Nearest (f32Units y) (f32Units z).natAbs avg)

/-- `v` is the prediction of 30_encoding R176 at position `i`: the product of the average and `i`, each rounded to
binary32, rounded to an integer; 0 where the average or the product is not finite. -/
def isPrediction (avg : BitVec 32) (i : Nat) (v : Word) : Prop :=
  (¬ f32Finite avg → v = 0) ∧
  (f32Finite avg → ∃ y z : BitVec 32, f32Nearest (i : Int) 1 y ∧ f32Nearest (f32Units avg * f32Units y) (2 ^ 298) z ∧
    (¬ f32Finite z → v = 0) ∧
    (f32Finite z → ∃ r : Int, nearestEven (f32Units z) (2 ^ 149) r ∧ v = BitVec.ofInt 64 r))

/-- `bits` is the least width that holds every residue (30_encoding R177). -/
abbrev leastWidth (res : List Word) (bits : Nat) : Prop :=
  (∀ r ∈ res, r.toNat < 2 ^ bits) ∧ (bits = 0 ∨ ∃ r ∈ res, 2 ^ (bits - 1) ≤ r.toNat)

/-- `base` is the baseline of a block of the values `vs`: the signed minimum, or the first value of a monotonic block
(42 R268, R269, 44 R341, R342). -/
abbrev isBaseline (mono : Bool) (vs : List Word) (base : Word) : Prop :=
  if mono then base = vs.headD 0 else base ∈ vs ∧ ∀ v ∈ vs, base.toInt ≤ v.toInt

/-! ## Results and completions -/

/-- The value of a growable writer at an index, as `GW_GET` reads it (45 R384). -/
def gwValue (g : GrowableWriter) (j : Nat) : Word := cellGet g.val j

/-- The result registers a command writes when it completes without error (30_encoding R144), `k` from 0 to 3. -/
def writesRes : Instr → Nat → Bool
  | .fsSelect _, k => k ≤ 2
  | .bpGeom _ _, _ => true
  | .deAdd, k | .deFinish, k => k == 0
  | .ddNext, k => k ≤ 1
  | .ddSkip, k => k == 1
  | .gbAdd, k | .gbGet, k | .gbIterReset, k => k == 0
  | .gbIterNext, k => k ≤ 1
  | .gwGet, k | .gwSet, k => k == 0
  | .pgGet, k | .pgSet, k | .pgGrow, k | .pgPageBpv, k => k == 0
  | .efeInit, _ => true
  | .efeEncode, k | .efeFinish, k => k == 0
  | .efdInit, k => k == 0
  | .efdNext, k | .efdAdvance, k | .efdPrev, k | .efdBack, k | .efdCurrent, k => k ≤ 1
  | .nop, _ | .unitReset, _ | .bpDecLL _ _, _ | .bpDecBL _ _, _ | .bpEncLL _ _, _ | .bpEncLB _ _, _ => false
  | .deInit, _ | .deInitMono, _ | .ddInit, _ | .ddInitMono, _ | .gbInit, _ | .gbInitMono, _ => false
  | .gwInit _, _ | .gwResize, _ | .pgInit _, _ | .pgResize, _ | .efdToBefore, _ | .efdToAfter, _ => false

/-- Operand register `k` (10_state R40). -/
def argReg (a : Args) (k : Nat) : Word :=
  match k with
  | 0 => a.a0
  | 1 => a.a1
  | 2 => a.a2
  | 3 => a.a3
  | 4 => a.a4
  | 5 => a.a5
  | 6 => a.a6
  | _ => a.a7

/-- Result register `k` (10_state R41). -/
def resReg (r : Results) (k : Nat) : Word :=
  if k = 0 then r.r0 else if k = 1 then r.r1 else if k = 2 then r.r2 else r.r3

/-- What a report of the Elias-Fano decoder over the sequence `xs` at the index `j` leaves
(47 R471, R472 and the Report convention of section 2): the index, the
high position `HP(j)` with low width `l`, the value or `NO_MORE_VALUES`, and the index as a result. -/
def reportedAt (xs : List Nat) (l : Nat) (j : Int) (t : State) : Prop :=
  t.efd.idx = j ∧ t.res.r1 = u64i j ∧
    (j = -1 → t.efd.hp = -1) ∧
    (∀ k : Nat, k < xs.length → j = (k : Int) → t.efd.hp = (k : Int) + ((xs.getD k 0 / 2 ^ l : Nat) : Int)) ∧
    (j = (xs.length : Int) → 0 < xs.length →
      t.efd.hp = (xs.length : Int) + ((xs.getLastD 0 / 2 ^ l : Nat) : Int)) ∧
    (j = (xs.length : Int) → xs.length = 0 → t.efd.hp = 0) ∧
    (∀ k : Nat, k < xs.length → j = (k : Int) → t.res.r0 = u64 (xs.getD k 0)) ∧
    (j < 0 ∨ (xs.length : Int) ≤ j → t.res.r0 = 0xFFFFFFFFFFFFFFFF)

/-- A command accepted and completed without error; `none` if it completes with an error. -/
def runOne (i : Instr) (s : State) : Option State :=
  match exec i (s.accept (encode i)) with
  | .next t => if t.status.err then none else some t
  | _ => none

/-- `k` commands `DD_NEXT` in a row, each of which completes without error; `none` if one does not. -/
def nextTimes : Nat → State → Option State
  | 0, s => some s
  | k + 1, s => (runOne .ddNext s).bind (nextTimes k)

/-- `EFE_ENCODE` of the values in a row, each of which completes without error; `none` if one does not. -/
def encodeAll : List Word → State → Option State
  | [], s => some s
  | x :: xs, s => (runOne .efeEncode { s with args := { s.args with a0 := x } }).bind (encodeAll xs)

/-- `DE_ADD` of the values in a row, each of which completes without error; `none` if one does not. -/
def addAll : List Word → State → Option State
  | [], s => some s
  | x :: xs, s => (runOne .deAdd { s with args := { s.args with a0 := x } }).bind (addAll xs)

end Sys2Proof.Machine
end

