-- ==== Sys2Proof/Certificates/Slice0/Obligations.lean ====
section
/-! DEFINITION. The statements for the provers, from the numbered rules of spec/. `exec i s` is the engine's execution of
the command `i` to its completion from the state `s`; `State.complete` and `State.completeErr` are the completion
without and with an error (60_exceptions R535), spelled out by `EveryCommandCompletes`. -/

open Sys2Proof Sys2Proof.Machine

/-! ## The command word -/

/-- R140, R144: the word of every command that has one decodes to that command, with every operand at every value its
field admits. -/
def Obligations.DecodeOfEncode : Prop :=
  ∀ i : Instr, WellFormed i → decode (encode i) = .ok i

/-- R140, R143: a word that decodes is the word of the command it decodes to, so each command has one word. -/
def Obligations.EncodeOfDecode : Prop :=
  ∀ (c : Word) (i : Instr), decode c = .ok i → WellFormed i ∧ encode i = c

/-- R142: which words are illegal, and what an illegal word does; a used width field out of range is no illegal word. -/
def Obligations.IllegalWordsComplete : Prop :=
  (∀ c : Word, (∃ e, decode c = .error e) ↔
    (opcField c ∉ [0x00, 0x01, 0x02, 0x03, 0x10, 0x11, 0x12, 0x13, 0x20, 0x21, 0x22, 0x23, 0x28, 0x29, 0x2A, 0x2B,
      0x30, 0x31, 0x32, 0x33, 0x34, 0x35, 0x40, 0x41, 0x42, 0x43, 0x48, 0x49, 0x4A, 0x4B, 0x4C, 0x4D, 0x50, 0x51, 0x52,
      0x58, 0x59, 0x5A, 0x5B, 0x5C, 0x5D, 0x5E, 0x5F]) ∨
    reservedField c ≠ 0 ∨
    (bpvField c ≠ 0 ∧ opcField c ∉ [0x01, 0x02, 0x10, 0x11, 0x12, 0x13, 0x40, 0x48]) ∨
    (fmtField c ≠ 0 ∧ opcField c ∉ [0x02, 0x10, 0x11, 0x12, 0x13])) ∧
  (∀ (s : State) (e : DecodeError) (rest : List Input),
    (s.inputs = .engine :: rest ∨ (s.inputs = [] ∧ rest = [])) → s.status.busy = true → s.hazard = {} →
    decode s.cmd = .error e →
    step s = .next { s with
      inputs := rest
      status := { s.status with busy := false, done := true, err := true, errCode := 5, errSticky := true }
      irq := { doneIrq := true, errIrq := true }
      errInfo := s.cmd }) ∧
  (∀ (s : State) (w : Nat), ¬ (1 ≤ w ∧ w ≤ 64) → ∀ i ∈ [Instr.fsSelect w, .bpGeom w .packed, .bpDecLL w .packed,
      .bpDecBL w .packed, .bpEncLL w .packed, .bpEncLB w .packed, .gwInit w, .pgInit w],
    exec i s = .next (s.completeErr .invalidBitWidth (u64 w))) ∧
  (∀ (s : State) (w : Nat), w ∉ sbWidths → ∀ i ∈ [Instr.bpGeom w .singleBlock, .bpDecLL w .singleBlock,
      .bpDecBL w .singleBlock, .bpEncLL w .singleBlock, .bpEncLB w .singleBlock],
    exec i s = .next (s.completeErr .invalidBitWidth (u64 w)))

/-- R140, R144: words written out from the fields of R140 decode to the command of their row. -/
def Obligations.SampleWordsDecode : Prop :=
  decode 0x0000000000000000 = .ok .nop ∧
  decode 0x0000000000001401 = .ok (.fsSelect 20) ∧
  decode 0x0000000000000D02 = .ok (.bpGeom 13 .packed) ∧
  decode 0x0000000000009511 = .ok (.bpDecBL 21 .singleBlock) ∧
  decode 0x0000000000000022 = .ok .deAdd ∧
  decode 0x000000000000002B = .ok .ddSkip ∧
  decode 0x0000000000000035 = .ok .gbIterNext ∧
  decode 0x0000000000000240 = .ok (.gwInit 2) ∧
  decode 0x000000000000004C = .ok .pgGrow ∧
  decode 0x0000000000000051 = .ok .efeEncode ∧
  decode 0x000000000000005F = .ok .efdCurrent

/-! ## Issue and completion of commands -/

/-- R536, R535: a turn of the engine is the execution of the command word it holds, and, where the host has committed a
hazard against the running command, what the hazard leaves (log 7, log 8); `withFetchWord` gives the engine a word and
the next turn. -/
def Obligations.StepRunsTheHeldCommand : Prop :=
  (∀ (s : State) (i : Instr) (rest : List Input), s.status.busy = true → decode s.cmd = .ok i →
    (s.inputs = .engine :: rest ∨ (s.inputs = [] ∧ rest = [])) →
    step s = mapNext State.settleHazards (exec i { s with inputs := rest }) ∧
    (s.hazard = {} → step s = exec i { s with inputs := rest })) ∧
  (∀ (s : State) (i : Instr), WellFormed i → s.hazard = {} →
    step (s.withFetchWord 64 (encode i).toNat) = exec i (s.accept (encode i)))

/-- R536: what accepting a command word does, and that the engine then decodes and executes it, reading the operand and stream
registers and the data memory as they stood. R540: a CMD write while BUSY changes OVR alone; OVR stays until the host clears
it or a reset. -/
def Obligations.CmdRegister : Prop :=
  (∀ (s : State) (c : Word) (rest : List Input), s.status.busy = false → nextIsStore s 0x010 c rest →
    step s = .next { s with
      inputs := rest
      cmd := c
      status := { s.status with busy := true, done := false, err := false, errCode := 0,
                                lastOpc := c.extractLsb' 0 8 } } ∧
    ∀ (t : State) (i : Instr) (rest' : List Input), step s = .next t → s.hazard = {} → rest = .engine :: rest' →
      decode c = .ok i →
      t.args = s.args ∧ t.inPtr = s.inPtr ∧ t.inEnd = s.inEnd ∧ t.outPtr = s.outPtr ∧ t.outEnd = s.outEnd ∧
        t.mem = s.mem ∧ step t = exec i { t with inputs := rest' }) ∧
  ((∀ (s : State) (c : Word) (rest : List Input), s.status.busy = true → nextIsStore s 0x010 c rest →
    step s = .next { s with inputs := rest, status := { s.status with ovr := true } }) ∧
  (∀ s t : State, s.cfg.legal → step s = .next t → s.status.ovr = true → t.status.ovr = true ∨
    (∃ v : Word, v.getLsbD 3 = true ∧ storeArrives s 0x028 v) ∨
    ∃ rest, nextIsReset s rest))

/-- R535, R530, R537: every command completes, without an error or with one of the thirteen codes, and completion is
recorded as R535 says; the operand registers, CTRL and the device's parameters are changed by no command. -/
def Obligations.EveryCommandCompletes : Prop :=
  ∀ (i : Instr) (s : State), ∃ t, exec i s = .next t ∧
    ((t.status = { s.status with busy := false, done := true } ∧ t.irq = { s.irq with doneIrq := true } ∧
        t.errInfo = s.errInfo) ∨
      ∃ e : BitVec 8, 1 ≤ e.toNat ∧ e.toNat ≤ 13 ∧
        t.status = { s.status with busy := false, done := true, err := true, errCode := e, errSticky := true } ∧
        t.irq = { doneIrq := true, errIrq := true }) ∧
    t.args = s.args ∧ t.ctrl = s.ctrl ∧ t.cfg = s.cfg ∧ t.cmd = s.cmd ∧ t.inputs = s.inputs ∧
      t.hostData = s.hostData ∧ t.hazard = s.hazard

/-- R531: a rejected command, an illegal word included, changes nothing but its completion; only a stream error of
`DD_NEXT` or `DD_SKIP` is fatal, and it changes the decoder and IN_PTR besides. The result registers are unchanged in
every case. -/
def Obligations.ErrorsArePrecise : Prop :=
  (∀ (i : Instr) (s t : State), s.status.err = false → exec i s = .next t → t.status.err = true →
    (∃ e info, t = s.completeErr e info) ∨
    ((i = .ddNext ∨ i = .ddSkip) ∧ t.dd.state = .poisoned ∧
      ∃ e info, (e = .invalidBitWidth ∨ e = .prematureEndOfStream) ∧
        t = ({ s with dd := t.dd, inPtr := t.inPtr, fresh := t.fresh }).completeErr e info)) ∧
  ∀ (s : State) (e : DecodeError) (rest : List Input),
    (s.inputs = .engine :: rest ∨ (s.inputs = [] ∧ rest = [])) → s.status.busy = true → s.hazard = {} →
    decode s.cmd = .error e →
    step s = .next (({ s with inputs := rest }).completeErr .illegalCommand s.cmd)

/-- R41: a command without error changes only the result registers its row of R144 names; a command with an error changes
none; the host reads them while idle (R45). R39: ERRINFO changes only where a command ends with an error, or at a reset,
and its reset value is 0; the host reads it while idle and cannot write it. R33: a load of CMD returns 0 at any time. -/
def Obligations.ResultAndErrorRegisters : Prop :=
  (∀ (i : Instr) (s t : State), exec i s = .next t →
    (s.status.err = false → t.status.err = true → t.res = s.res) ∧
    ∀ k, k < 4 → writesRes i k = false → resReg t.res k = resReg s.res k) ∧
  (State.reset.errInfo = 0 ∧
  (∀ s t : State, s.cfg.legal → step s = .next t → t.errInfo = s.errInfo ∨
    (s.status.busy = true ∧ t.status.busy = false ∧ t.status.err = true ∧ t.status.errCode ≠ 0) ∨
    ∃ rest, nextIsReset s rest) ∧
  (∀ (s : State) (rest : List Input), s.status.busy = false → nextIsLoad s 0x038 rest →
    step s = .next { s with inputs := rest, hostData := s.errInfo }) ∧
  ∀ (s : State) (v : Word) (rest : List Input), nextIsStore s 0x038 v rest → step s = .next { s with inputs := rest }) ∧
  (∀ (s : State) (k : Nat) (rest : List Input), k < 4 → s.status.busy = false → nextIsLoad s (0x080 + 8 * k) rest →
    step s = .next { s with inputs := rest, hostData := resReg s.res k }) ∧
  ∀ (s : State) (rest : List Input), nextIsLoad s 0x010 rest → step s = .next { s with inputs := rest, hostData := 0 }

/-! ## The interrupt -/

/-- R38: IRQ_STATUS reads its two bits, a written 1 clears a bit, every completion (the step in which BUSY falls, but for a
reset) sets DONE_IRQ and every completion with an error sets ERR_IRQ; its reset value is 0. -/
def Obligations.IrqStatusRegister : Prop :=
  State.reset.irq = { doneIrq := false, errIrq := false } ∧
  (∀ (s : State) (rest : List Input), nextIsLoad s 0x030 rest →
    ∃ v : Word, step s = .next { s with inputs := rest, hostData := v } ∧ v.getLsbD 0 = s.irq.doneIrq ∧
      v.getLsbD 1 = s.irq.errIrq ∧ ∀ k, 2 ≤ k → v.getLsbD k = false) ∧
  (∀ (s : State) (v : Word) (rest : List Input), nextIsStore s 0x030 v rest →
    step s = .next { s with inputs := rest, irq :=
      { doneIrq := s.irq.doneIrq && !v.getLsbD 0, errIrq := s.irq.errIrq && !v.getLsbD 1 } }) ∧
  ∀ s t : State, s.cfg.legal → step s = .next t → s.status.busy = true → t.status.busy = false →
    (t.irq.doneIrq = true ∧ (s.status.err = false → t.status.err = true → t.irq.errIrq = true)) ∨
    ∃ rest, nextIsReset s rest

/-- R545: the interrupt output is the formula of the rule, a pending bit stays until the host clears it (or a reset), and
the engine's operation depends neither on IRQ_STATUS nor on CTRL. R546: a 1 the host writes to a bit of IRQ_STATUS in the
step in which the engine sets it leaves the bit 1; an access of the host in the step of a completion acts before it (log 6
for accesses other than that one). -/
def Obligations.InterruptOutput : Prop :=
  (∀ s : State, irqLine s = true ↔
    (s.irq.doneIrq = true ∧ s.ctrl.ieDone = true) ∨ (s.irq.errIrq = true ∧ s.ctrl.ieErr = true)) ∧
  (∀ s t : State, s.cfg.legal → step s = .next t → s.irq.doneIrq = true → t.irq.doneIrq = true ∨
    (∃ v : Word, v.getLsbD 0 = true ∧ storeArrives s 0x030 v) ∨
    ∃ rest, nextIsReset s rest) ∧
  (∀ s t : State, s.cfg.legal → step s = .next t → s.irq.errIrq = true → t.irq.errIrq = true ∨
    (∃ v : Word, v.getLsbD 1 = true ∧ storeArrives s 0x030 v) ∨
    ∃ rest, nextIsReset s rest) ∧
  (∀ (i : Instr) (s : State) (q : IrqStatus) (c : Ctrl), s.status.err = false →
    exec i { s with irq := q, ctrl := c } =
      mapNext (fun t => { t with irq := { doneIrq := true, errIrq := q.errIrq || t.status.err }, ctrl := c }) (exec i s)) ∧
  (∀ (s t : State) (v : Word) (rest : List Input), s.status.busy = true → nextIsStoreAtCompletion s 0x030 v rest →
    step s = .next t → t.status.busy = false ∧ t.irq.doneIrq = true ∧
      (s.status.err = false → t.status.err = true → t.irq.errIrq = true)) ∧
  ∀ (s t : State) (a : HostAccess) (rest : List Input), s.status.busy = true → s.inputs = .hostAndEngine a :: rest →
    step { s with inputs := .host a :: .engine :: rest } = .next t → step s = step t

/-! ## The register window and the host's accesses -/

/-- R37: STATUS_CLR reads 0 and a written 1 clears OVR (bit 3) or ERR_STICKY (bit 4). R36: CTRL holds the two interrupt
enables, ignores and reads 0 in its other bits, and its reset value is 0; a written bit 63 resets instead
(`ResetEndsEverything`). R34: where STATUS shows each of its fields; a load returns it also while a command runs. -/
def Obligations.ControlRegisters : Prop :=
  ((∀ (s : State) (rest : List Input), nextIsLoad s 0x028 rest →
    step s = .next { s with inputs := rest, hostData := 0 }) ∧
  ∀ (s : State) (v : Word) (rest : List Input), nextIsStore s 0x028 v rest →
    step s = .next { s with inputs := rest, status :=
      { s.status with ovr := s.status.ovr && !v.getLsbD 3, errSticky := s.status.errSticky && !v.getLsbD 4 } }) ∧
  (State.reset.ctrl = { ieDone := false, ieErr := false } ∧
  (∀ (s : State) (rest : List Input), nextIsLoad s 0x020 rest →
    ∃ v : Word, step s = .next { s with inputs := rest, hostData := v } ∧ v.getLsbD 0 = s.ctrl.ieDone ∧
      v.getLsbD 1 = s.ctrl.ieErr ∧ ∀ k, 2 ≤ k → v.getLsbD k = false) ∧
  ∀ (s : State) (v : Word) (rest : List Input), nextIsStore s 0x020 v rest → v.getLsbD 63 = false →
    step s = .next { s with inputs := rest, ctrl := { ieDone := v.getLsbD 0, ieErr := v.getLsbD 1 } }) ∧
  (∀ (s : State) (rest : List Input), nextIsLoad s 0x018 rest →
    ∃ v : Word, step s = .next { s with inputs := rest, hostData := v } ∧
      v.getLsbD 0 = s.status.busy ∧ v.getLsbD 1 = s.status.done ∧ v.getLsbD 2 = s.status.err ∧
      v.getLsbD 3 = s.status.ovr ∧ v.getLsbD 4 = s.status.errSticky ∧ (∀ k, 5 ≤ k → k < 8 → v.getLsbD k = false) ∧
      v.extractLsb' 8 8 = s.status.errCode ∧ v.extractLsb' 16 8 = s.status.lastOpc ∧
      ∀ k, 24 ≤ k → v.getLsbD k = false)

/-- R31, R46: the constant registers and the parameter registers read their values, at any time, and ignore writes. R45,
R32: a store to a read-only register or to a reserved offset does nothing, and a load of a reserved offset returns 0. R45,
R47 to R53: what every unit context register reads while idle. -/
def Obligations.ReadOnlyRegisters : Prop :=
  (∀ (s : State) (rest : List Input), s.cfg.legal →
    ∀ p ∈ [((0x000 : Nat), (0x0000000042503634 : Nat)), (0x008, 0x0000000000010000), (0x0C0, s.cfg.memBytes),
      (0x0C8, s.cfg.max24), (0x0D0, s.cfg.max48), (0x0D8, s.cfg.gbMaxBlocks), (0x0E0, s.cfg.gbStoreWords),
      (0x0E8, s.cfg.gwStoreWords), (0x0F0, s.cfg.pgMaxPages), (0x0F8, s.cfg.pgStoreWords), (0x100, s.cfg.efMaxValues)],
    (nextIsLoad s p.1 rest → ∃ v : Word, v.toNat = p.2 ∧ step s = .next { s with inputs := rest, hostData := v }) ∧
    ∀ v : Word, nextIsStore s p.1 v rest → step s = .next { s with inputs := rest }) ∧
  (∀ (s : State) (off : Nat) (rest : List Input), off < 4096 → off % 8 = 0 →
    (∀ v : Word, nextIsStore s off v rest →
      off ∉ [0x010, 0x020, 0x028, 0x030, 0x040, 0x048, 0x050, 0x058, 0x060, 0x068, 0x070, 0x078, 0x0A0, 0x0A8, 0x0B0,
        0x0B8] → step s = .next { s with inputs := rest }) ∧
    (nextIsLoad s off rest → off ∉ windowOffsets → step s = .next { s with inputs := rest, hostData := 0 })) ∧
  (∀ (s : State) (rest : List Input), s.status.busy = false →
    ∀ p ∈ deltaRegisters s ++ arrayRegisters s ++ eliasFanoRegisters s, nextIsLoad s p.1 rest →
      step s = .next { s with inputs := rest, hostData := p.2 })

/-- R40: an operand register is written and read back by the host while the engine is idle, and is changed by no command;
its reset value is 0. R42, R43: the stream registers are read and written by the host in the same way. (That an operand
register also reads exactly while a command runs is the model's choice, log 9: `HostAccessFrame`.) -/
def Obligations.HostOperandRegisters : Prop :=
  ((∀ k, k < 8 → argReg State.reset.args k = 0) ∧
  (∀ (i : Instr) (s t : State), exec i s = .next t → t.args = s.args) ∧
  ∀ (s : State) (k : Nat) (rest : List Input), k < 8 →
    (nextIsLoad s (0x040 + 8 * k) rest → s.status.busy = false →
      step s = .next { s with inputs := rest, hostData := argReg s.args k }) ∧
    ∀ v : Word, nextIsStore s (0x040 + 8 * k) v rest → s.status.busy = false →
      ∃ a : Args, step s = .next { s with inputs := rest, args := a } ∧ argReg a k = v ∧
        ∀ j, j < 8 → j ≠ k → argReg a j = argReg s.args j) ∧
  ((State.reset.inPtr = 0 ∧ State.reset.inEnd = 0 ∧ State.reset.outPtr = 0 ∧ State.reset.outEnd = 0) ∧
  ∀ (s : State) (v : Word) (rest : List Input), s.status.busy = false →
    (nextIsStore s 0x0A0 v rest → step s = .next { s with inputs := rest, inPtr := v }) ∧
    (nextIsStore s 0x0A8 v rest → step s = .next { s with inputs := rest, inEnd := v }) ∧
    (nextIsStore s 0x0B0 v rest → step s = .next { s with inputs := rest, outPtr := v }) ∧
    (nextIsStore s 0x0B8 v rest → step s = .next { s with inputs := rest, outEnd := v }) ∧
    (nextIsLoad s 0x0A0 rest → step s = .next { s with inputs := rest, hostData := s.inPtr }) ∧
    (nextIsLoad s 0x0A8 rest → step s = .next { s with inputs := rest, hostData := s.inEnd }) ∧
    (nextIsLoad s 0x0B0 rest → step s = .next { s with inputs := rest, hostData := s.outPtr }) ∧
    (nextIsLoad s 0x0B8 rest → step s = .next { s with inputs := rest, hostData := s.outEnd }))

/-- R590, R45, R109 (logs 5, 7, 8, 9, 16: the model's reading of the unspecified outcomes): whatever the host does short
of a reset, no unit context, no result register and not ERRINFO change; and the data memory changes only in the stored
bytes and, while a command runs, in the ranges it uses; a load of an operand register is exact also while a command runs
(log 9, the model's choice). -/
def Obligations.HostAccessFrame : Prop :=
  (∀ (s t : State) (a : HostAccess) (rest : List Input), s.inputs = .host a :: rest → step s = .next t →
    (¬ ∃ rest', nextIsReset s rest') → s.cfg.legal →
    (t.cfg = s.cfg ∧ t.de = s.de ∧ t.dd = s.dd ∧ t.gb = s.gb ∧ t.gw = s.gw ∧ t.pg = s.pg ∧ t.efe = s.efe ∧
      t.efd = s.efd ∧ t.res = s.res ∧ t.errInfo = s.errInfo ∧ t.inputs = rest) ∧
    (s.status.busy = false → t.fresh = s.fresh ∧ t.hazard = s.hazard) ∧
    (match a with
     | .memStoreWord x _ => sameOutsideRanges s.mem t.mem ((x, 8) :: if s.status.busy then runningRanges s else [])
     | .memStoreByte x _ => sameOutsideRanges s.mem t.mem ((x, 1) :: if s.status.busy then runningRanges s else [])
     | _ => t.mem = s.mem)) ∧
  ∀ (s : State) (k : Nat) (rest : List Input), k < 8 → nextIsLoad s (0x040 + 8 * k) rest →
    step s = .next { s with inputs := rest, hostData := argReg s.args k }

/-! ## The data memory -/

/-- R102, R103, R190: a 64-bit element is stored and loaded most significant byte first, a store changes its own eight
bytes alone, and a load returns what was stored. That a host access needs no alignment is the model's choice (log 24). -/
def Obligations.BigEndianElements : Prop :=
  ∀ (m : Memory) (a : Nat) (v : Word), m.wf →
    (∀ j, j < 8 → readByte (writeWord m a v) (a + j) = v.extractLsb' (56 - 8 * j) 8) ∧
    sameOutside m (writeWord m a v) a 8 ∧ readWord (writeWord m a v) a = v ∧ (writeWord m a v).wf ∧
    (∀ j, j < 8 → (readWord m a).extractLsb' (56 - 8 * j) 8 = readByte m (a + j)) ∧
    ∀ (s : State) (rest : List Input), s.mem = m → s.status.busy = false → a + 8 ≤ s.cfg.memBytes →
      (s.inputs = .host (.memStoreWord a v) :: rest → step s = .next { s with inputs := rest, mem := writeWord m a v }) ∧
      (s.inputs = .host (.memLoadWord a) :: rest → step s = .next { s with inputs := rest, hostData := readWord m a })

/-! ## Reset -/

/-- R580, R45: what the reset state holds: a load at every offset of the window returns the reset value of the table of R45
(0 at a reserved offset, R32), every context UNINIT and empty. The device's parameters are left open within their bounds
(log 2). -/
def Obligations.ResetStateHolds : Prop :=
  Config.params.legal ∧
  (∀ off : Nat, off < 4096 → off % 8 = 0 →
    step { State.reset with inputs := [.host (.regLoad 8 (Config.params.regBase + u64 off))] } =
      .next { State.reset with hostData :=
       (if off = 0x000 then 0x0000000042503634 else if off = 0x008 then 0x0000000000010000
       else if off = 0x0C0 then u64 Config.params.memBytes else if off = 0x0C8 then u64 Config.params.max24
       else if off = 0x0D0 then u64 Config.params.max48 else if off = 0x0D8 then u64 Config.params.gbMaxBlocks
       else if off = 0x0E0 then u64 Config.params.gbStoreWords else if off = 0x0E8 then u64 Config.params.gwStoreWords
       else if off = 0x0F0 then u64 Config.params.pgMaxPages else if off = 0x0F8 then u64 Config.params.pgStoreWords
       else if off = 0x100 then u64 Config.params.efMaxValues else 0) }) ∧
  (State.reset.de.state = .uninit ∧ State.reset.de.buf = []) ∧ (State.reset.dd.state = .uninit ∧ State.reset.dd.buf = []) ∧
  (State.reset.gb.state = .uninit ∧ State.reset.gb.blk = [] ∧ State.reset.gb.pend = []) ∧
  (State.reset.gw.state = .uninit ∧ State.reset.gw.val = []) ∧ (State.reset.pg.state = .uninit ∧ State.reset.pg.pages = []) ∧
  State.reset.efe.state = .uninit ∧ State.reset.efd.state = .uninit ∧ irqLine State.reset = false

/-- R580, R582: a hardware reset and a soft reset put every register and context in its reset value at once, whatever
BUSY is, without completing a running command; the data memory changes only in bytes that command could write. That a
hardware reset acts as the soft one and keeps the data memory is the model's choice (log 15), and so is which bytes a
running command could have written (log 14). -/
def Obligations.ResetEndsEverything : Prop :=
  ∀ (s : State) (rest : List Input), nextIsReset s rest →
    ∃ t, step s = .next t ∧
      t = { State.resetOf s.cfg with mem := t.mem, inputs := rest, hostData := s.hostData, fresh := t.fresh } ∧
      (s.status.busy = false → t.mem = s.mem ∧ t.fresh = s.fresh) ∧
      sameOutsideRanges s.mem t.mem (runningWrites s)

/-! ## System commands -/

/-- R510: `NOP` completes and does nothing else. R511, R583: `UNIT_RESET` returns the contexts its mask names to their reset
values and touches nothing else; a mask above bit 6 is rejected. -/
def Obligations.SystemCommands : Prop :=
  (encode .nop = 0 ∧ (∀ c : Word, decode c = .ok .nop → c = 0) ∧ ∀ s : State, exec .nop s = .next { s with
    status := { s.status with busy := false, done := true }, irq := { s.irq with doneIrq := true } }) ∧
  (encode .unitReset = 0x03 ∧ ∀ s : State,
    (s.args.a0.toNat < 2 ^ 7 → ∃ t, exec .unitReset s = .next t ∧
      t = ({ s with de := t.de, dd := t.dd, gb := t.gb, gw := t.gw, pg := t.pg, efe := t.efe, efd := t.efd }).complete ∧
      t.de = (if s.args.a0.getLsbD 0 then {} else s.de) ∧ t.dd = (if s.args.a0.getLsbD 1 then {} else s.dd) ∧
      t.gb = (if s.args.a0.getLsbD 2 then {} else s.gb) ∧ t.gw = (if s.args.a0.getLsbD 3 then {} else s.gw) ∧
      t.pg = (if s.args.a0.getLsbD 4 then {} else s.pg) ∧ t.efe = (if s.args.a0.getLsbD 5 then {} else s.efe) ∧
      t.efd = (if s.args.a0.getLsbD 6 then {} else s.efd)) ∧
    (2 ^ 7 ≤ s.args.a0.toNat → exec .unitReset s = .next (s.completeErr .invalidArgument s.args.a0)))

/-! ## Format selector -/

/-- R240, R241: `FS_SELECT` gives the aligned width, else 24 or 48 where the count allows it, else the first single-block
width whose padding is within the budget, else the width itself; an illegal width is rejected. The chosen width is at least
the asked one and within the budget, and the bit packer accepts the chosen pair. -/
def Obligations.FsSelectChooses : Prop :=
  (∀ (s : State) (bpv : Nat),
    let r := min s.args.a1.toNat (7 * 65536)
    let acc := r * bpv
    let maxb := bpv + acc / 65536
    let vc := s.args.a0.toNat
    let fits : Nat → Prop := fun w => bpv ≤ w ∧ w ≤ maxb ∧
      (((64 % w) * 65536 : Nat) : Int) ≤ ((acc : Int) + ((bpv : Int) - (w : Int)) * 65536) * ((64 / w : Nat) : Int)
    (¬ (1 ≤ bpv ∧ bpv ≤ 64) → exec (.fsSelect bpv) s = .next (s.completeErr .invalidBitWidth (u64 bpv))) ∧
    (1 ≤ bpv ∧ bpv ≤ 64 → ∃ f w : Nat,
      exec (.fsSelect bpv) s =
        .next ({ s with res := { s.res with r0 := u64 f, r1 := u64 w, r2 := u64 (min maxb 64) } }).complete ∧
      (if bpv ≤ 8 ∧ 8 ≤ maxb then f = 0 ∧ w = 8
       else if bpv ≤ 16 ∧ 16 ≤ maxb then f = 0 ∧ w = 16
       else if bpv ≤ 32 ∧ 32 ≤ maxb then f = 0 ∧ w = 32
       else if bpv ≤ 64 ∧ 64 ≤ maxb then f = 0 ∧ w = 64
       else if vc ≤ s.cfg.max24 ∧ bpv ≤ 24 ∧ 24 ≤ maxb then f = 0 ∧ w = 24
       else if vc ≤ s.cfg.max48 ∧ bpv ≤ 48 ∧ 48 ≤ maxb then f = 0 ∧ w = 48
       else (f = 1 ∧ w ∈ sbWidths ∧ fits w ∧ ∀ w' ∈ sbWidths, w' < w → ¬ fits w') ∨
         (f = 0 ∧ w = bpv ∧ ∀ w' ∈ sbWidths, ¬ fits w')))) ∧
  (∀ (s t : State) (bpv : Nat), 1 ≤ bpv → bpv ≤ 64 → exec (.fsSelect bpv) s = .next t →
    bpv ≤ t.res.r1.toNat ∧ t.res.r1.toNat ≤ t.res.r2.toNat ∧ t.res.r2.toNat ≤ 64 ∧
    ((t.res.r0 = 0 ∧ checkWidth t.res.r1.toNat .packed = none) ∨
      (t.res.r0 = 1 ∧ checkWidth t.res.r1.toNat .singleBlock = none)) ∧
    (s.args.a1 = 0 → t.res.r1.toNat = bpv))

/-! ## Bit packer -/

/-- R201, R152, R154: `BP_GEOM` gives the geometry: the PACKED counts are the least positive ones whose values fill whole
words and whole bytes, and a PACKED_SINGLE_BLOCK word holds as many values as fit. -/
def Obligations.BpGeomCounts : Prop :=
  (∀ (s : State) (w : Nat), 1 ≤ w → w ≤ 64 → ∃ a b c d : Nat,
    exec (.bpGeom w .packed) s = .next ({ s with res := { r0 := u64 a, r1 := u64 b, r2 := u64 c, r3 := u64 d } }).complete ∧
    0 < a ∧ 0 < b ∧ a ≤ 64 ∧ b ≤ 64 ∧ w * b = 64 * a ∧ (∀ b' a', 0 < b' → w * b' = 64 * a' → b ≤ b' ∧ a ≤ a') ∧
    0 < c ∧ 0 < d ∧ c ≤ 64 ∧ d ≤ 8 ∧ w * d = 8 * c ∧ ∀ d' c', 0 < d' → w * d' = 8 * c' → d ≤ d' ∧ c ≤ c') ∧
  (∀ (s : State) (w : Nat), w ∈ sbWidths → ∃ k : Nat,
    exec (.bpGeom w .singleBlock) s =
      .next ({ s with res := { r0 := 1, r1 := u64 k, r2 := 8, r3 := u64 k } }).complete ∧
    k ≤ 64 ∧ k * w ≤ 64 ∧ 64 < (k + 1) * w) ∧
  ∀ (s : State) (w : Nat) (f : Format), checkWidth w f ≠ none →
    exec (.bpGeom w f) s = .next (s.completeErr .invalidBitWidth (u64 w))

/-- R203, R204, R150, R151, R155: decoding a PACKED array of long blocks or of bytes: bit `b` of the value `j` is stream
bit `j * w + (w - 1 - b)`, the bits from `w` up are 0, and only the destination's bytes change. -/
def Obligations.BpDecodePacked : Prop :=
  ∀ (s : State) (w : Nat), 1 ≤ w → w ≤ 64 → s.mem.wf →
    (let src := s.args.a0.toNat + 8 * s.args.a1.toNat
     let dst := s.args.a2.toNat + 8 * s.args.a3.toNat
     let nv := s.args.a4.toNat * (64 / Nat.gcd w 64)
     let nw := s.args.a4.toNat * (w / Nat.gcd w 64)
     src % 8 = 0 → dst % 8 = 0 → src + 8 * nw ≤ s.cfg.memBytes → dst + 8 * nv ≤ s.cfg.memBytes →
     (src + 8 * nw ≤ dst ∨ dst + 8 * nv ≤ src) →
     ∃ t, exec (.bpDecLL w .packed) s = .next t ∧ t = ({ s with mem := t.mem }).complete ∧
       sameOutside s.mem t.mem dst (8 * nv) ∧
       ∀ j b, j < nv → b < 64 → (readWord t.mem (dst + 8 * j)).getLsbD b =
         (decide (b < w) && streamBit s.mem src (j * w + (w - 1 - b)))) ∧
    (let src := s.args.a0.toNat + s.args.a1.toNat
     let dst := s.args.a2.toNat + 8 * s.args.a3.toNat
     let nv := s.args.a4.toNat * (8 / Nat.gcd w 8)
     let nb := s.args.a4.toNat * (w / Nat.gcd w 8)
     dst % 8 = 0 → src + nb ≤ s.cfg.memBytes → dst + 8 * nv ≤ s.cfg.memBytes →
     (src + nb ≤ dst ∨ dst + 8 * nv ≤ src) →
     ∃ t, exec (.bpDecBL w .packed) s = .next t ∧ t = ({ s with mem := t.mem }).complete ∧
       sameOutside s.mem t.mem dst (8 * nv) ∧
       ∀ j b, j < nv → b < 64 → (readWord t.mem (dst + 8 * j)).getLsbD b =
         (decide (b < w) && streamBit s.mem src (j * w + (w - 1 - b))))

/-- R203, R204, R153, R155: decoding PACKED_SINGLE_BLOCK words, from a long-block or a byte source: value `j` is field
`j mod K` of word `j div K`, least significant field first; only the destination's bytes change. -/
def Obligations.BpDecodeSingleBlock : Prop :=
  ∀ (s : State) (w : Nat), w ∈ sbWidths → s.mem.wf →
    let k := 64 / w
    let nv := s.args.a4.toNat * k
    let dst := s.args.a2.toNat + 8 * s.args.a3.toNat
    dst % 8 = 0 → dst + 8 * nv ≤ s.cfg.memBytes →
    (let src := s.args.a0.toNat + 8 * s.args.a1.toNat
     src % 8 = 0 → src + 8 * s.args.a4.toNat ≤ s.cfg.memBytes →
     (src + 8 * s.args.a4.toNat ≤ dst ∨ dst + 8 * nv ≤ src) →
     ∃ t, exec (.bpDecLL w .singleBlock) s = .next t ∧ t = ({ s with mem := t.mem }).complete ∧
       sameOutside s.mem t.mem dst (8 * nv) ∧
       ∀ j, j < nv → (readWord t.mem (dst + 8 * j)).toNat =
         (readWord s.mem (src + 8 * (j / k))).toNat / 2 ^ (w * (j % k)) % 2 ^ w) ∧
    (let src := s.args.a0.toNat + s.args.a1.toNat
     src + 8 * s.args.a4.toNat ≤ s.cfg.memBytes → (src + 8 * s.args.a4.toNat ≤ dst ∨ dst + 8 * nv ≤ src) →
     ∃ t, exec (.bpDecBL w .singleBlock) s = .next t ∧ t = ({ s with mem := t.mem }).complete ∧
       sameOutside s.mem t.mem dst (8 * nv) ∧
       ∀ j, j < nv → (readWord t.mem (dst + 8 * j)).toNat =
         (readWord s.mem (src + 8 * (j / k))).toNat / 2 ^ (w * (j % k)) % 2 ^ w)

/-- R205, R206, R150, R151: encoding values to PACKED long blocks or bytes: stream bit `q` of the destination is bit
`w - 1 - q mod w` of the value `q div w`, so a wider value is masked; only the destination's bytes change. -/
def Obligations.BpEncodePacked : Prop :=
  ∀ (s : State) (w : Nat), 1 ≤ w → w ≤ 64 → s.mem.wf →
    let src := s.args.a0.toNat + 8 * s.args.a1.toNat
    src % 8 = 0 →
    (let dst := s.args.a2.toNat + 8 * s.args.a3.toNat
     let nv := s.args.a4.toNat * (64 / Nat.gcd w 64)
     let nw := s.args.a4.toNat * (w / Nat.gcd w 64)
     dst % 8 = 0 → src + 8 * nv ≤ s.cfg.memBytes → dst + 8 * nw ≤ s.cfg.memBytes →
     (src + 8 * nv ≤ dst ∨ dst + 8 * nw ≤ src) →
     ∃ t, exec (.bpEncLL w .packed) s = .next t ∧ t = ({ s with mem := t.mem }).complete ∧
       sameOutside s.mem t.mem dst (8 * nw) ∧
       ∀ q, q < 64 * nw → streamBit t.mem dst q = (readWord s.mem (src + 8 * (q / w))).getLsbD (w - 1 - q % w)) ∧
    (let dst := s.args.a2.toNat + s.args.a3.toNat
     let nv := s.args.a4.toNat * (8 / Nat.gcd w 8)
     let nb := s.args.a4.toNat * (w / Nat.gcd w 8)
     src + 8 * nv ≤ s.cfg.memBytes → dst + nb ≤ s.cfg.memBytes → (src + 8 * nv ≤ dst ∨ dst + nb ≤ src) →
     ∃ t, exec (.bpEncLB w .packed) s = .next t ∧ t = ({ s with mem := t.mem }).complete ∧
       sameOutside s.mem t.mem dst nb ∧
       ∀ q, q < 8 * nb → streamBit t.mem dst q = (readWord s.mem (src + 8 * (q / w))).getLsbD (w - 1 - q % w))

/-- R205, R206, R153: encoding values to PACKED_SINGLE_BLOCK words, to a long-block or a byte destination: bit `b` of word
`c` is bit `b mod w` of value `c * K + b div w`, and the padding bits are 0; only the destination's bytes change. -/
def Obligations.BpEncodeSingleBlock : Prop :=
  ∀ (s : State) (w : Nat), w ∈ sbWidths → s.mem.wf →
    let k := 64 / w
    let nv := s.args.a4.toNat * k
    let nb := 8 * s.args.a4.toNat
    let src := s.args.a0.toNat + 8 * s.args.a1.toNat
    src % 8 = 0 → src + 8 * nv ≤ s.cfg.memBytes →
    (let dst := s.args.a2.toNat + 8 * s.args.a3.toNat
     dst % 8 = 0 → dst + nb ≤ s.cfg.memBytes → (src + 8 * nv ≤ dst ∨ dst + nb ≤ src) →
     ∃ t, exec (.bpEncLL w .singleBlock) s = .next t ∧ t = ({ s with mem := t.mem }).complete ∧
       sameOutside s.mem t.mem dst nb ∧
       ∀ c b, c < s.args.a4.toNat → b < 64 → (readWord t.mem (dst + 8 * c)).getLsbD b =
         (decide (b < k * w) && (readWord s.mem (src + 8 * (c * k + b / w))).getLsbD (b % w))) ∧
    (let dst := s.args.a2.toNat + s.args.a3.toNat
     dst + nb ≤ s.cfg.memBytes → (src + 8 * nv ≤ dst ∨ dst + nb ≤ src) →
     ∃ t, exec (.bpEncLB w .singleBlock) s = .next t ∧ t = ({ s with mem := t.mem }).complete ∧
       sameOutside s.mem t.mem dst nb ∧
       ∀ c b, c < s.args.a4.toNat → b < 64 → (readWord t.mem (dst + 8 * c)).getLsbD b =
         (decide (b < k * w) && (readWord s.mem (src + 8 * (c * k + b / w))).getLsbD (b % w)))

/-- R202, R104, R105, R203 to R206: with a legal width, 0 iterations complete without touching memory or checking an
address; otherwise a misaligned word array raises AlignmentFault and a range past the data memory AccessFault, the
source before the destination, each with its ERRINFO and no other effect. -/
def Obligations.BpCommandsReject : Prop :=
  ∀ (s : State) (w : Nat) (f : Format), checkWidth w f = none →
    (s.args.a4 = 0 → ∀ i ∈ [Instr.bpDecLL w f, .bpDecBL w f, .bpEncLL w f, .bpEncLB w f], exec i s = .next s.complete) ∧
    (s.args.a4 ≠ 0 →
      (∀ p ∈ [(Instr.bpDecLL w f, bpArraysDecLL w f s), (.bpEncLL w f, bpArraysEncLL w f s),
          (.bpEncLB w f, bpArraysEncLB w f s)],
        (p.2.src % 8 ≠ 0 → exec p.1 s = .next (s.completeErr .alignmentFault (u64 p.2.src))) ∧
        (p.2.src % 8 = 0 → s.cfg.memBytes < p.2.src + p.2.srcBytes →
          exec p.1 s = .next (s.completeErr .accessFault (u64 (max p.2.src s.cfg.memBytes))))) ∧
      (let b := bpArraysDecBL w f s
       s.cfg.memBytes < b.src + b.srcBytes →
         exec (.bpDecBL w f) s = .next (s.completeErr .accessFault (u64 (max b.src s.cfg.memBytes)))) ∧
      (∀ p ∈ [(Instr.bpDecLL w f, bpArraysDecLL w f s), (.bpEncLL w f, bpArraysEncLL w f s)],
        p.2.src % 8 = 0 → p.2.src + p.2.srcBytes ≤ s.cfg.memBytes →
        (p.2.dst % 8 ≠ 0 → exec p.1 s = .next (s.completeErr .alignmentFault (u64 p.2.dst))) ∧
        (p.2.dst % 8 = 0 → s.cfg.memBytes < p.2.dst + p.2.dstBytes →
          exec p.1 s = .next (s.completeErr .accessFault (u64 (max p.2.dst s.cfg.memBytes))))) ∧
      (let b := bpArraysDecBL w f s
       b.src + b.srcBytes ≤ s.cfg.memBytes →
        (b.dst % 8 ≠ 0 → exec (.bpDecBL w f) s = .next (s.completeErr .alignmentFault (u64 b.dst))) ∧
        (b.dst % 8 = 0 → s.cfg.memBytes < b.dst + b.dstBytes →
          exec (.bpDecBL w f) s = .next (s.completeErr .accessFault (u64 (max b.dst s.cfg.memBytes))))) ∧
      let b := bpArraysEncLB w f s
      b.src % 8 = 0 → b.src + b.srcBytes ≤ s.cfg.memBytes → s.cfg.memBytes < b.dst + b.dstBytes →
        exec (.bpEncLB w f) s = .next (s.completeErr .accessFault (u64 (max b.dst s.cfg.memBytes))))

/-- R203 to R206, R430, R474 (logs 10, 11, 12: the model draws the values the spec leaves open free, and this holds whatever
they are): overlapping bit-packer arrays change nothing but the destination's bytes; a command of the Elias-Fano encoder
over overlapping regions changes nothing but the regions, its context and its results; the decoder over regions that hold
no valid encoding completes, writes no memory, and changes nothing but the cursor and its results. R436, R590: regions
that share a byte with those of an encoding that is not finished hold no valid encoding for the decoder (log 25). -/
def Obligations.UnspecifiedResultsStayInside : Prop :=
  (∀ (s : State) (w : Nat) (f : Format), checkWidth w f = none →
    ∀ p ∈ [(Instr.bpDecLL w f, bpArraysDecLL w f s, bpCheckDecLL w f s), (.bpDecBL w f, bpArraysDecBL w f s,
        bpCheckDecBL w f s), (.bpEncLL w f, bpArraysEncLL w f s, bpCheckEncLL w f s),
        (.bpEncLB w f, bpArraysEncLB w f s, bpCheckEncLB w f s)],
      p.2.2 = none → bpOverlap p.2.1 = true →
      ∃ t, exec p.1 s = .next t ∧ t = ({ s with mem := t.mem, fresh := t.fresh }).complete ∧
        sameOutside s.mem t.mem p.2.1.dst p.2.1.dstBytes) ∧
  (∀ (s t : State) (i : Instr), i = .efeInit ∨ i = .efeEncode ∨ i = .efeFinish → s.cfg.legal → EfeInv s.cfg s.efe →
    exec i s = .next t →
    t = { s with mem := t.mem, fresh := t.fresh, efe := t.efe, res := t.res, status := t.status, irq := t.irq,
                 errInfo := t.errInfo } ∧
    sameOutsideRanges s.mem t.mem (efRegions (if i = .efeInit then efLayoutOfArgs s.args else efeLayout s.efe))) ∧
  (∀ (s : State) (i : Instr), s.efd.state = .ready → efdSequence s = none →
    (((i = .efdNext ∨ i = .efdAdvance) ∧ s.efd.dir = .forward) ∨ ((i = .efdPrev ∨ i = .efdBack) ∧ s.efd.dir = .backward) ∨
      i = .efdToAfter ∨ i = .efdCurrent) →
    ∃ t, exec i s = .next t ∧
      t = ({ s with
        efd := { s.efd with idx := t.efd.idx, hp := t.efd.hp, dir := t.efd.dir }
        res := { s.res with r0 := t.res.r0, r1 := t.res.r1 }
        fresh := t.fresh }).complete ∧
      t.efd.dir = (if i = .efdToAfter then .backward else s.efd.dir)) ∧
  (∀ (s : State) (x : Nat), s.efe.state = .encoding →
    (∃ r ∈ efRegions (efeLayout s.efe), r.1 ≤ x ∧ x < r.1 + r.2) →
    (∃ r ∈ efRegions (efdLayout s.efd), r.1 ≤ x ∧ x < r.1 + r.2) → efdSequence s = none)

/-- R207: encoding values and decoding the result, at the same width, format and count, gives the values back, masked to
the width; long form and byte form. The decoding reads where the encoding wrote and writes clear of it. -/
def Obligations.BpRoundTrip : Prop :=
  ∀ (s t : State) (w : Nat) (f : Format) (back : Word), s.mem.wf → checkWidth w f = none →
    (exec (.bpEncLL w f) s = .next t → bpCheckEncLL w f s = none → bpOverlap (bpArraysEncLL w f s) = false →
      let b := bpArraysEncLL w f s
      let u := { t with args := { s.args with a0 := s.args.a2, a1 := s.args.a3, a2 := back, a3 := 0 } }
      back.toNat % 8 = 0 → back.toNat + 8 * b.values ≤ s.cfg.memBytes →
      (b.dst + b.dstBytes ≤ back.toNat ∨ back.toNat + 8 * b.values ≤ b.dst) →
      ∃ v, exec (.bpDecLL w f) u = .next v ∧
        ∀ j, j < b.values → readWord v.mem (back.toNat + 8 * j) = u64 ((readWord s.mem (b.src + 8 * j)).toNat % 2 ^ w)) ∧
    (exec (.bpEncLB w f) s = .next t → bpCheckEncLB w f s = none → bpOverlap (bpArraysEncLB w f s) = false →
      let b := bpArraysEncLB w f s
      let u := { t with args := { s.args with a0 := s.args.a2, a1 := s.args.a3, a2 := back, a3 := 0 } }
      back.toNat % 8 = 0 → back.toNat + 8 * b.values ≤ s.cfg.memBytes →
      (b.dst + b.dstBytes ≤ back.toNat ∨ back.toNat + 8 * b.values ≤ b.dst) →
      ∃ v, exec (.bpDecBL w f) u = .next v ∧
        ∀ j, j < b.values → readWord v.mem (back.toNat + 8 * j) = u64 ((readWord s.mem (b.src + 8 * j)).toNat % 2 ^ w))

/-! ## Block delta encoder -/

/-- R261, R264, R265, R304, R305, R344, R345: the six initialisations by a block or page size put the unit in its first
state, in every state, writing nothing else; a size that is no power of two from 64 to 4096 is rejected. -/
def Obligations.BlockUnitsInitialise : Prop :=
  ∀ s : State,
    let b := s.args.a0
    let legal := (∃ k, b.toNat = 2 ^ k) ∧ 64 ≤ b.toNat ∧ b.toNat ≤ 4096
    let zeros : List Word := List.replicate b.toNat 0
    (legal →
      exec .deInit s = .next ({ s with de :=
        { state := .idle, mono := false, blockSize := b, pending := 0, ord := 0, buf := zeros } }).complete ∧
      exec .deInitMono s = .next ({ s with de :=
        { state := .idle, mono := true, blockSize := b, pending := 0, ord := 0, buf := zeros } }).complete ∧
      exec .ddInit s = .next ({ s with dd :=
        { state := .ready, mono := false, blockSize := b, count := s.args.a1, ord := 0, off := b, buf := zeros } }).complete ∧
      exec .ddInitMono s = .next ({ s with dd :=
        { state := .ready, mono := true, blockSize := b, count := s.args.a1, ord := 0, off := b, buf := zeros } }).complete ∧
      exec .gbInit s = .next ({ s with gb :=
        { state := .ready, mono := false, pageSize := b, size := 0, blk := [], pend := zeros, ipos := 0, iend := 0 } }).complete ∧
      exec .gbInitMono s = .next ({ s with gb :=
        { state := .ready, mono := true, pageSize := b, size := 0, blk := [], pend := zeros, ipos := 0, iend := 0 } }).complete) ∧
    (¬ legal → ∀ i ∈ [Instr.deInit, .deInitMono, .ddInit, .ddInitMono, .gbInit, .gbInitMono],
      exec i s = .next (s.completeErr .invalidArgument b))

/-- R266: `DE_ADD` buffers a value that does not fill the block; the value that fills it has the block encoded and written at
OUT_PTR. R267: `DE_FINISH` writes the block of the buffered values, if there are any, and finishes the writer. RES0 is the
count of values added; only the written bytes of the data memory change. -/
def Obligations.DeltaWriterWrites : Prop :=
  (∀ s : State, (s.de.state = .idle ∨ s.de.state = .buffering) → s.mem.wf →
    s.outPtr.toNat ≤ s.outEnd.toNat → s.outEnd.toNat ≤ s.cfg.memBytes →
    (s.de.pending.toNat + 1 ≠ s.de.blockSize.toNat →
      exec .deAdd s = .next ({ s with
        de := { s.de with buf := s.de.buf.set s.de.pending.toNat s.args.a0, pending := s.de.pending + 1,
                          state := .buffering, ord := s.de.ord + 1 }
        res := { s.res with r0 := s.de.ord + 1 } }).complete) ∧
    (s.de.pending.toNat + 1 = s.de.blockSize.toNat →
      let bs := encodeBlock s.de.mono (s.de.buf.take s.de.pending.toNat ++ [s.args.a0])
      s.outPtr.toNat + bs.length ≤ s.outEnd.toNat →
      ∃ t, exec .deAdd s = .next t ∧
        t = ({ s with
          mem := t.mem
          outPtr := t.outPtr
          de := { s.de with pending := 0, state := .idle, ord := s.de.ord + 1 }
          res := { s.res with r0 := s.de.ord + 1 } }).complete ∧
        t.outPtr.toNat = s.outPtr.toNat + bs.length ∧ bytesAt t.mem s.outPtr.toNat bs ∧
        sameOutside s.mem t.mem s.outPtr.toNat bs.length)) ∧
  (∀ s : State, (s.de.state = .idle ∨ s.de.state = .buffering) → s.mem.wf →
    s.outPtr.toNat ≤ s.outEnd.toNat → s.outEnd.toNat ≤ s.cfg.memBytes →
    (s.de.pending = 0 → exec .deFinish s = .next ({ s with
        de := { s.de with state := .finished }, res := { s.res with r0 := s.de.ord } }).complete) ∧
    (s.de.pending ≠ 0 →
      let bs := encodeBlock s.de.mono (s.de.buf.take s.de.pending.toNat)
      s.outPtr.toNat + bs.length ≤ s.outEnd.toNat →
      ∃ t, exec .deFinish s = .next t ∧
        t = ({ s with
          mem := t.mem
          outPtr := t.outPtr
          de := { s.de with pending := 0, state := .finished }
          res := { s.res with r0 := s.de.ord } }).complete ∧
        t.outPtr.toNat = s.outPtr.toNat + bs.length ∧ bytesAt t.mem s.outPtr.toNat bs ∧
        sameOutside s.mem t.mem s.outPtr.toNat bs.length))

/-- R260, R262, R266, R267, R112: a writer that is not initialised, is finished, has no legal stream range or no room for its
block rejects `DE_ADD` and `DE_FINISH` and stays exactly as it was. R306, R307: a decoder that is not initialised, is asked
past its declared count, or has no legal stream range rejects `DD_NEXT` and `DD_SKIP` in the same way. -/
def Obligations.DeltaCommandsReject : Prop :=
  (∀ (s : State) (i : Instr), i = .deAdd ∨ i = .deFinish →
    (s.de.state = .uninit → exec i s = .next (s.completeErr .notInitialized 0)) ∧
    (s.de.state = .finished → exec i s = .next (s.completeErr .alreadyFinished 0)) ∧
    (s.de.state ≠ .uninit → s.de.state ≠ .finished →
      (¬ (s.outPtr.toNat ≤ s.outEnd.toNat ∧ s.outEnd.toNat ≤ s.cfg.memBytes) →
        exec i s = .next (s.completeErr .accessFault s.outEnd)) ∧
      (s.outPtr.toNat ≤ s.outEnd.toNat ∧ s.outEnd.toNat ≤ s.cfg.memBytes →
        let bs := if i = .deAdd then encodeBlock s.de.mono (s.de.buf.take s.de.pending.toNat ++ [s.args.a0])
          else encodeBlock s.de.mono (s.de.buf.take s.de.pending.toNat)
        (if i = .deAdd then s.de.pending.toNat + 1 = s.de.blockSize.toNat else s.de.pending ≠ 0) →
        s.outEnd.toNat < s.outPtr.toNat + bs.length →
          exec i s = .next (s.completeErr .outputOverflow (u64 bs.length))))) ∧
  (∀ s : State,
    (s.dd.state = .uninit → ∀ i ∈ [Instr.ddNext, .ddSkip], exec i s = .next (s.completeErr .notInitialized 0)) ∧
    (s.dd.state = .ready →
      (s.dd.ord = s.dd.count → exec .ddNext s = .next (s.completeErr .indexOutOfRange s.dd.ord)) ∧
      (s.dd.count.toNat < s.dd.ord.toNat + s.args.a0.toNat →
        exec .ddSkip s = .next (s.completeErr .indexOutOfRange s.args.a0)) ∧
      (¬ (s.inPtr.toNat ≤ s.inEnd.toNat ∧ s.inEnd.toNat ≤ s.cfg.memBytes) →
        (s.dd.ord ≠ s.dd.count → exec .ddNext s = .next (s.completeErr .accessFault s.inEnd)) ∧
        (s.args.a0 ≠ 0 → s.dd.ord.toNat + s.args.a0.toNat ≤ s.dd.count.toNat →
          exec .ddSkip s = .next (s.completeErr .accessFault s.inEnd)))))

/-- R270: the size of an encoded block in bytes. -/
def Obligations.DeltaBlockSize : Prop :=
  (∀ (mono : Bool) (vs : List Word), vs ≠ [] →
    let base := if mono then vs.headD 0 else signedMin (vs.headD 0) vs
    let bits := residueWidth (if mono then monoResidues base (monoAvg base (vs.getLastD 0) vs.length) 0 vs
      else plainResidues base vs)
    (encodeBlock mono vs).length = 1 + (if base = 0 then 0 else (bvl (zz base)).length) + (if mono then 4 else 0) +
      (vs.length * bits + 7) / 8) ∧
  ∀ v : Word, (v.toNat < 2 ^ 7 → (bvl v).length = 1) ∧
    (∀ k, 2 ≤ k → k ≤ 8 → 2 ^ (7 * (k - 1)) ≤ v.toNat → v.toNat < 2 ^ (7 * k) → (bvl v).length = k) ∧
    (2 ^ 56 ≤ v.toNat → (bvl v).length = 9)

/-- R13: zigzag decoding undoes zigzag encoding and the other way round, and small magnitudes get small codes. R170: reading
the block varint of a value gives the value and the position after it, whatever follows; its bytes are the groups of seven
bits, low-order first, with their continuation bits, the ninth byte whole. R14, R176: the prediction of the monotonic
variants is the product of average and position rounded to binary32 (ties to even) and then to an integer. R269: the
average of a block is the quotient in binary32. -/
def Obligations.DeltaCodesInvert : Prop :=
  (∀ n : Word, unzz (zz n) = n ∧ zz (unzz n) = n ∧
    (0 ≤ n.toInt → ((zz n).toNat : Int) = 2 * n.toInt) ∧ (n.toInt < 0 → ((zz n).toNat : Int) = -2 * n.toInt - 1)) ∧
  (∀ (m : Memory) (v : Word) (p fin : Nat), bytesAt m p (bvl v) → p + (bvl v).length ≤ fin →
    streamBvl m fin p = .ok (v, p + (bvl v).length) ∧ 1 ≤ (bvl v).length ∧ (bvl v).length ≤ 9) ∧
  (∀ (v : Word) (j : Nat), j < (bvl v).length → ((bvl v).getD j 0).toNat =
    if j = 8 then v.toNat / 2 ^ 56
    else v.toNat / 2 ^ (7 * j) % 2 ^ 7 + if j + 1 < (bvl v).length then 2 ^ 7 else 0) ∧
  (∀ (avg : BitVec 32) (i : Nat), i < 4096 → isPrediction avg i (pred avg i)) ∧
  (∀ (first last : Word) (c : Nat), 1 ≤ c → c ≤ 4096 → f32Finite (monoAvg first last c) ∧
    isBlockAverage first last c (monoAvg first last c))

/-- R171 to R173, R177, R268, R269: the bytes of an encoded block: the token, the varint of a baseline that is not 0, the
four bytes of the average of a monotonic block, most significant first, and the residues at their least width, each most
significant bit first, the unused bits 0. R263, R302, R303: the decoder reads an encoded block of up to 4096 values back
exactly, plain or monotonic, consuming its bytes and no more; skipping it passes over exactly those bytes. -/
def Obligations.DeltaBlockReadsBack : Prop :=
  (∀ (mono : Bool) (vs : List Word), vs ≠ [] → vs.length ≤ 4096 →
    ∃ (base : Word) (bits : Nat) (res : List Word) (tail : List Byte),
      let avg := monoAvg (vs.headD 0) (vs.getLastD 0) vs.length
      isBaseline mono vs base ∧
      res.length = vs.length ∧
      (∀ i, i < vs.length → res.getD i 0 = zz (vs.getD i 0 - base - if mono then pred avg i else 0)) ∧
      leastWidth res bits ∧ bits ≤ 64 ∧
      encodeBlock mono vs = BitVec.ofNat 8 (2 * bits + if base = 0 then 1 else 0) ::
        ((if base = 0 then [] else bvl (zz base)) ++
          (if mono then [avg.extractLsb' 24 8, avg.extractLsb' 16 8, avg.extractLsb' 8 8, avg.extractLsb' 0 8] else []) ++
          tail) ∧
      tail.length = (vs.length * bits + 7) / 8 ∧
      ∀ q, q < 8 * tail.length → (tail.getD (q / 8) 0).getLsbD (7 - q % 8) =
        (decide (q < vs.length * bits) && (res.getD (q / bits) 0).getLsbD (bits - 1 - q % bits))) ∧
  (∀ (mono : Bool) (vs : List Word) (m : Memory) (p fin : Nat), vs ≠ [] → vs.length ≤ 4096 →
    bytesAt m p (encodeBlock mono vs) → p + (encodeBlock mono vs).length ≤ fin →
    refillBlock mono vs.length m fin p = .ok (vs, p + (encodeBlock mono vs).length)) ∧
  (∀ (mono : Bool) (vs : List Word) (m : Memory) (p fin : Nat), vs ≠ [] → vs.length ≤ 4096 →
    bytesAt m p (encodeBlock mono vs) → p + (encodeBlock mono vs).length ≤ fin →
    skipBlock mono vs.length m fin p = .ok (p + (encodeBlock mono vs).length))

/-! ## Block delta decoder -/

/-- R306: `DD_NEXT` returns the buffered value, reading the next block first where none is buffered; RES1 is the count
of values consumed. -/
def Obligations.DdNextReturnsValue : Prop :=
  ∀ s : State, s.dd.state = .ready → s.dd.ord ≠ s.dd.count → s.inPtr.toNat ≤ s.inEnd.toNat →
    s.inEnd.toNat ≤ s.cfg.memBytes →
    (s.dd.off ≠ s.dd.blockSize → exec .ddNext s = .next ({ s with
      dd := { s.dd with off := s.dd.off + 1, ord := s.dd.ord + 1 }
      res := { s.res with r0 := s.dd.buf.getD s.dd.off.toNat 0, r1 := s.dd.ord + 1 } }).complete) ∧
    (s.dd.off = s.dd.blockSize → ∀ vs p,
      refillBlock s.dd.mono (min s.dd.blockSize.toNat (s.dd.count.toNat - s.dd.ord.toNat)) s.mem s.inEnd.toNat
        s.inPtr.toNat = .ok (vs, p) →
      exec .ddNext s = .next ({ s with
        inPtr := u64 p
        dd := { s.dd with buf := vs ++ s.dd.buf.drop vs.length, off := 1, ord := s.dd.ord + 1 }
        res := { s.res with r0 := (vs ++ s.dd.buf.drop vs.length).getD 0 0, r1 := s.dd.ord + 1 } }).complete)

/-- R307: `DD_SKIP` of 0 reads nothing; a skip inside the buffered block moves in it; a skip to the start of a later block
passes over whole blocks; a skip into a block passes over the whole blocks before it and decodes that one. -/
def Obligations.DdSkipMoves : Prop :=
  ∀ s : State, s.dd.state = .ready → DdInv s.dd → s.dd.ord.toNat + s.args.a0.toNat ≤ s.dd.count.toNat →
    (s.args.a0 = 0 → exec .ddSkip s = .next ({ s with res := { s.res with r1 := s.dd.ord } }).complete) ∧
    (s.args.a0 ≠ 0 → s.inPtr.toNat ≤ s.inEnd.toNat → s.inEnd.toNat ≤ s.cfg.memBytes →
      let b := s.dd.blockSize.toNat
      let left := b - s.dd.off.toNat
      (s.args.a0.toNat ≤ left → exec .ddSkip s = .next ({ s with
        dd := { s.dd with off := s.dd.off + s.args.a0, ord := s.dd.ord + s.args.a0 }
        res := { s.res with r1 := s.dd.ord + s.args.a0 } }).complete) ∧
      (left < s.args.a0.toNat → ∀ p1,
        skipBlocks s.dd.mono b s.mem s.inEnd.toNat ((s.args.a0.toNat - left) / b) s.inPtr.toNat = .ok p1 →
        let rem := (s.args.a0.toNat - left) % b
        (rem = 0 → exec .ddSkip s = .next ({ s with
          inPtr := u64 p1
          dd := { s.dd with off := s.dd.blockSize, ord := s.dd.ord + s.args.a0 }
          res := { s.res with r1 := s.dd.ord + s.args.a0 } }).complete) ∧
        (rem ≠ 0 → ∀ vs p2,
          refillBlock s.dd.mono (min b (s.dd.count.toNat - (s.dd.ord.toNat + s.args.a0.toNat - rem))) s.mem
            s.inEnd.toNat p1 = .ok (vs, p2) →
          exec .ddSkip s = .next ({ s with
            inPtr := u64 p2
            dd := { s.dd with buf := vs ++ s.dd.buf.drop vs.length, off := u64 rem,
                              ord := s.dd.ord + s.args.a0 }
            res := { s.res with r1 := s.dd.ord + s.args.a0 } }).complete)))

/-- R301: a stream that ends too early or claims a width above 64 is fatal to the read: the error is reported, the
decoder is poisoned, the result registers and the memory stay; a poisoned decoder rejects its commands, and only an
initialisation or a unit reset leaves that state. -/
def Obligations.DdStreamErrorsPoison : Prop :=
  (∀ (s t : State), s.dd.state = .ready → s.dd.ord ≠ s.dd.count → s.dd.off = s.dd.blockSize →
    s.inPtr.toNat ≤ s.inEnd.toNat → s.inEnd.toNat ≤ s.cfg.memBytes → exec .ddNext s = .next t →
    (s.inPtr = s.inEnd → t.status = statusCompleteErr s.status .prematureEndOfStream ∧ t.errInfo = s.inPtr ∧
      t.dd.state = .poisoned ∧ t.res = s.res ∧ t.mem = s.mem) ∧
    (s.inPtr ≠ s.inEnd → 129 < (readByte s.mem s.inPtr.toNat).toNat →
      t.status = statusCompleteErr s.status .invalidBitWidth ∧
      t.errInfo.toNat = (readByte s.mem s.inPtr.toNat).toNat / 2 ∧
      t.dd.state = .poisoned ∧ t.res = s.res ∧ t.mem = s.mem)) ∧
  (∀ (s t : State), ∀ i ∈ [Instr.ddNext, .ddSkip], s.status.err = false → exec i s = .next t → t.status.err = true →
    (t.status.errCode = 1 ∨ t.status.errCode = 3) → t.dd.state = .poisoned) ∧
  (∀ s : State, s.dd.state = .poisoned → ∀ i ∈ [Instr.ddNext, .ddSkip],
    exec i s = .next (s.completeErr .notInitialized 7)) ∧
  ∀ (s t : State) (i : Instr), s.dd.state = .poisoned → exec i s = .next t → t.dd.state ≠ .poisoned →
    i = .ddInit ∨ i = .ddInitMono ∨ i = .unitReset

/-- R308: skipping is the same as reading and discarding: where `k` commands `DD_NEXT` and one more all complete without
error, `DD_SKIP` of `k` completes without error and the next `DD_NEXT` returns the same value, count and stream
position. -/
def Obligations.SkipIsReadAndDiscard : Prop :=
  ∀ (s a b : State), DdInv s.dd → s.args.a0 ≠ 0 → nextTimes s.args.a0.toNat s = some a → runOne .ddNext a = some b →
    ∃ c d, runOne .ddSkip s = some c ∧ runOne .ddNext c = some d ∧ c.dd.ord = a.dd.ord ∧
      d.res.r0 = b.res.r0 ∧ d.res.r1 = b.res.r1 ∧ d.dd.ord = b.dd.ord ∧ d.dd.off = b.dd.off ∧ d.inPtr = b.inPtr

/-! ## Growable append buffer -/

/-- R346, R343: `GB_ADD` appends the value: to the pending buffer, or, where it fills the block, by packing the block, if
there is a slot and room for it; RES0 is the index of the value. -/
def Obligations.GbAddAppends : Prop :=
  ∀ s : State, s.gb.state = .ready →
    let p := s.gb.size.toNat - s.gb.blk.length * s.gb.pageSize.toNat
    (p + 1 ≠ s.gb.pageSize.toNat → exec .gbAdd s = .next ({ s with
      gb := { s.gb with pend := s.gb.pend.set p s.args.a0, size := s.gb.size + 1 }
      res := { s.res with r0 := s.gb.size } }).complete) ∧
    (p + 1 = s.gb.pageSize.toNat →
      let vs := s.gb.pend.take p ++ [s.args.a0]
      let rec' := if s.gb.mono then packMono vs else packPlain vs
      let words := gbUsed s.gb + (s.gb.pageSize.toNat * rec'.bits + 63) / 64
      (s.gb.blk.length < s.cfg.gbMaxBlocks → words ≤ s.cfg.gbStoreWords → exec .gbAdd s = .next ({ s with
        gb := { s.gb with blk := s.gb.blk ++ [rec'], size := s.gb.size + 1 }
        res := { s.res with r0 := s.gb.size } }).complete) ∧
      (s.cfg.gbMaxBlocks ≤ s.gb.blk.length →
        exec .gbAdd s = .next (s.completeErr .capacityExceeded (u64 (s.gb.blk.length + 1)))) ∧
      (s.gb.blk.length < s.cfg.gbMaxBlocks → s.cfg.gbStoreWords < words →
        exec .gbAdd s = .next (s.completeErr .capacityExceeded (u64 words))))

/-- R347, R348, R349: reading by index and the iterator; the iterator goes on to the size of its reset and then reports
no value, which is no error; before an initialisation the buffer's commands are rejected. -/
def Obligations.GbReads : Prop :=
  (∀ s : State, s.gb.state = .uninit → ∀ i ∈ [Instr.gbAdd, .gbGet, .gbIterReset, .gbIterNext],
    exec i s = .next (s.completeErr .notInitialized 0)) ∧
  ∀ s : State, s.gb.state = .ready →
    (s.args.a0.toNat < s.gb.size.toNat → exec .gbGet s = .next ({ s with
      res := { s.res with r0 := gbValue s.gb s.args.a0.toNat } }).complete) ∧
    (s.gb.size.toNat ≤ s.args.a0.toNat → exec .gbGet s = .next (s.completeErr .indexOutOfRange s.args.a0)) ∧
    (exec .gbIterReset s = .next ({ s with
      gb := { s.gb with ipos := 0, iend := s.gb.size }, res := { s.res with r0 := s.gb.size } }).complete) ∧
    (s.gb.ipos.toNat < s.gb.iend.toNat → exec .gbIterNext s = .next ({ s with
      gb := { s.gb with ipos := s.gb.ipos + 1 }
      res := { s.res with r0 := gbValue s.gb s.gb.ipos.toNat, r1 := 1 } }).complete) ∧
    (s.gb.iend.toNat ≤ s.gb.ipos.toNat → exec .gbIterNext s = .next ({ s with
      res := { s.res with r0 := 0, r1 := 0 } }).complete)

/-- R341, R342: the record of a packed block: the signed minimum and the unmodified deltas, or the first value, the average
and the zigzag residues, at their least width; it gives every value back exactly, plain or monotonic. R351: an append that succeeds gives the
value the next index and changes no value before it, whether or not it packs a block. -/
def Obligations.GbKeepsValues : Prop :=
  (∀ vs : List Word, vs ≠ [] →
    (isBaseline false vs (packPlain vs).base ∧ (packPlain vs).res = vs.map (fun v => v - (packPlain vs).base) ∧
      (packPlain vs).avg = 0 ∧ leastWidth (packPlain vs).res (packPlain vs).bits) ∧
    (isBaseline true vs (packMono vs).base ∧ (packMono vs).avg = monoAvg (vs.headD 0) (vs.getLastD 0) vs.length ∧
      (packMono vs).res.length = vs.length ∧
      (∀ i, i < vs.length →
        (packMono vs).res.getD i 0 = zz (vs.getD i 0 - (packMono vs).base - pred (packMono vs).avg i)) ∧
      leastWidth (packMono vs).res (packMono vs).bits)) ∧
  (∀ (vs : List Word) (o : Nat), o < vs.length →
    gbBlockValue false (packPlain vs) o = vs.getD o 0 ∧ gbBlockValue true (packMono vs) o = vs.getD o 0) ∧
  (∀ (s t : State), s.gb.state = .ready → GbInv s.cfg s.gb → s.gb.size.toNat + 1 < 2 ^ 64 → s.status.err = false →
    exec .gbAdd s = .next t → t.status.err = false →
    t.gb.size.toNat = s.gb.size.toNat + 1 ∧ gbValue t.gb s.gb.size.toNat = s.args.a0 ∧
      ∀ j, j < s.gb.size.toNat → gbValue t.gb j = gbValue s.gb j)

/-! ## Growable writer and paged array -/

/-- R381, R383 to R386: what the growable writer's commands do when they are not rejected: an array of zeros, a read, a
write that widens to just the value's length when it must, a truncation or padding with zeros. -/
def Obligations.GrowableWriterCommands : Prop :=
  ∀ s : State,
    (∀ w, 1 ≤ w → w ≤ 64 → (s.args.a0.toNat * w + 63) / 64 ≤ s.cfg.gwStoreWords →
      ∃ t, exec (.gwInit w) s = .next t ∧ t = ({ s with gw := t.gw }).complete ∧ t.gw.state = .ready ∧
        t.gw.size = s.args.a0 ∧ t.gw.bpv = u64 w ∧ ∀ j, gwValue t.gw j = 0) ∧
    (s.gw.state = .ready → GwInv s.cfg s.gw →
      let i := s.args.a0.toNat
      (i < s.gw.size.toNat → exec .gwGet s = .next ({ s with res := { s.res with r0 := gwValue s.gw i } }).complete) ∧
      (i < s.gw.size.toNat →
        let v := s.args.a1.toNat
        let w := if v < 2 ^ s.gw.bpv.toNat then s.gw.bpv.toNat else bitlen v
        (s.gw.size.toNat * w + 63) / 64 ≤ s.cfg.gwStoreWords →
        ∃ t, exec .gwSet s = .next t ∧
          t = ({ s with gw := { s.gw with bpv := u64 w, val := t.gw.val }
                        res := { s.res with r0 := u64 w } }).complete ∧
          v < 2 ^ w ∧ ∀ j, gwValue t.gw j = if j = i then s.args.a1 else gwValue s.gw j) ∧
      ((i * s.gw.bpv.toNat + 63) / 64 ≤ s.cfg.gwStoreWords →
        ∃ t, exec .gwResize s = .next t ∧
          t = ({ s with gw := { s.gw with size := s.args.a0, val := t.gw.val } }).complete ∧
          ∀ j, gwValue t.gw j = if j < i then gwValue s.gw j else 0))

/-- R381, R383 to R386: what the growable writer rejects: a command before `GW_INIT`, an index past the size, an array that does
not fit its store. R391 to R397: what the paged array rejects: a command before `PG_INIT`, an index past the size or the
page count, a page shift outside 6 to 30, a plan of `PG_INIT`, `PG_SET`, `PG_RESIZE` or `PG_GROW` with too many pages or
words (the pages checked first), a growth past 2^64 - 1. -/
def Obligations.DynamicArraysReject : Prop :=
  (∀ s : State,
    (s.gw.state = .uninit → ∀ i ∈ [Instr.gwGet, .gwSet, .gwResize], exec i s = .next (s.completeErr .notInitialized 0)) ∧
    (∀ w, 1 ≤ w → w ≤ 64 → s.cfg.gwStoreWords < (s.args.a0.toNat * w + 63) / 64 →
      exec (.gwInit w) s = .next (s.completeErr .capacityExceeded (u64 ((s.args.a0.toNat * w + 63) / 64)))) ∧
    (s.gw.state = .ready →
      (s.gw.size.toNat ≤ s.args.a0.toNat → ∀ i ∈ [Instr.gwGet, .gwSet],
        exec i s = .next (s.completeErr .indexOutOfRange s.args.a0)) ∧
      (let need := (s.gw.size.toNat * bitlen s.args.a1.toNat + 63) / 64
       s.args.a0.toNat < s.gw.size.toNat → 2 ^ s.gw.bpv.toNat ≤ s.args.a1.toNat → s.cfg.gwStoreWords < need →
        exec .gwSet s = .next (s.completeErr .capacityExceeded (u64 need))) ∧
      let need := (s.args.a0.toNat * s.gw.bpv.toNat + 63) / 64
      s.cfg.gwStoreWords < need → exec .gwResize s = .next (s.completeErr .capacityExceeded (u64 need)))) ∧
  (∀ s : State,
    (s.pg.state = .uninit → ∀ i ∈ [Instr.pgGet, .pgSet, .pgResize, .pgGrow, .pgPageBpv],
      exec i s = .next (s.completeErr .notInitialized 0)) ∧
    (∀ w, 1 ≤ w → w ≤ 64 →
      (¬ (6 ≤ s.args.a1.toNat ∧ s.args.a1.toNat ≤ 30) →
        exec (.pgInit w) s = .next (s.completeErr .invalidArgument s.args.a1)) ∧
      (6 ≤ s.args.a1.toNat ∧ s.args.a1.toNat ≤ 30 →
        let sh := s.args.a1.toNat
        let np := (s.args.a0.toNat + (2 ^ sh - 1)) / 2 ^ sh
        let words := ((List.range np).map (fun k => (min (2 ^ sh) (s.args.a0.toNat - k * 2 ^ sh) * w + 63) / 64)).sum
        (s.cfg.pgMaxPages < np → exec (.pgInit w) s = .next (s.completeErr .capacityExceeded (u64 np))) ∧
        (np ≤ s.cfg.pgMaxPages → s.cfg.pgStoreWords < words →
          exec (.pgInit w) s = .next (s.completeErr .capacityExceeded (u64 words))))) ∧
    (s.pg.state = .ready →
      (s.pg.size.toNat ≤ s.args.a0.toNat → ∀ i ∈ [Instr.pgGet, .pgSet],
        exec i s = .next (s.completeErr .indexOutOfRange s.args.a0)) ∧
      (pgNp s.pg ≤ s.args.a0.toNat → exec .pgPageBpv s = .next (s.completeErr .indexOutOfRange s.args.a0)) ∧
      (let np := (s.args.a0.toNat + (2 ^ s.pg.shift.toNat - 1)) / 2 ^ s.pg.shift.toNat
       s.cfg.pgMaxPages < np → exec .pgResize s = .next (s.completeErr .capacityExceeded (u64 np))) ∧
      (s.pg.size.toNat < s.args.a0.toNat → 2 ^ 64 ≤ s.args.a0.toNat + max 3 (s.args.a0.toNat / 8) →
        ∃ info, exec .pgGrow s = .next (s.completeErr .capacityExceeded info))) ∧
    (s.pg.state = .ready → PgInv s.cfg s.pg →
      let sh := s.pg.shift.toNat
      let pages : Nat → Nat := fun m => (m + (2 ^ sh - 1)) / 2 ^ sh
      let words : Nat → (Nat → Nat) → Nat := fun m ws =>
        ((List.range (pages m)).map (fun k => (min (2 ^ sh) (m - k * 2 ^ sh) * ws k + 63) / 64)).sum
      let width : Nat → Nat := fun k => if k < pgNp s.pg then (pgPage s.pg k).w else s.pg.bpv0.toNat
      let i := s.args.a0.toNat
      let v := s.args.a1.toNat
      (let need := words s.pg.size.toNat (fun k => if k = i / 2 ^ sh then bitlen v else width k)
       i < s.pg.size.toNat → 2 ^ (pgPage s.pg (i / 2 ^ sh)).w ≤ v → s.cfg.pgStoreWords < need →
        exec .pgSet s = .next (s.completeErr .capacityExceeded (u64 need))) ∧
      (pages i ≤ s.cfg.pgMaxPages → s.cfg.pgStoreWords < words i width →
        exec .pgResize s = .next (s.completeErr .capacityExceeded (u64 (words i width)))) ∧
      (s.pg.size.toNat < i →
        let m := i + max 3 (i / 8)
        (s.cfg.pgMaxPages < pages m → exec .pgGrow s = .next (s.completeErr .capacityExceeded (u64 (pages m)))) ∧
        (pages m ≤ s.cfg.pgMaxPages → s.cfg.pgStoreWords < words m width →
          exec .pgGrow s = .next (s.completeErr .capacityExceeded (u64 (words m width)))))))

/-- R390 to R394, R397: what the paged array's initialisation, reads and writes do when they are not rejected; a write
widens its own page alone, to just the value's length. -/
def Obligations.PagedArrayInitGetSet : Prop :=
  ∀ s : State,
    let words : Nat → Nat → Nat → (Nat → Nat) → Nat := fun size sh np ws =>
      ((List.range np).map (fun k => (min (2 ^ sh) (size - k * 2 ^ sh) * ws k + 63) / 64)).sum
    (∀ w, 1 ≤ w → w ≤ 64 → 6 ≤ s.args.a1.toNat → s.args.a1.toNat ≤ 30 →
      let size := s.args.a0.toNat
      let sh := s.args.a1.toNat
      let np := (size + (2 ^ sh - 1)) / 2 ^ sh
      np ≤ s.cfg.pgMaxPages → words size sh np (fun _ => w) ≤ s.cfg.pgStoreWords →
      ∃ t, exec (.pgInit w) s = .next t ∧ t = ({ s with pg := t.pg }).complete ∧ t.pg.state = .ready ∧
        t.pg.size = s.args.a0 ∧ t.pg.shift = s.args.a1 ∧ t.pg.bpv0 = u64 w ∧ pgNp t.pg = np ∧
        (∀ k, k < np → (pgPage t.pg k).w = w) ∧ ∀ i, i < size → pgValue t.pg i = 0) ∧
    (s.pg.state = .ready → PgInv s.cfg s.pg →
      let i := s.args.a0.toNat
      (i < s.pg.size.toNat →
        exec .pgGet s = .next ({ s with res := { s.res with r0 := pgValue s.pg i } }).complete) ∧
      (i < pgNp s.pg →
        exec .pgPageBpv s = .next ({ s with res := { s.res with r0 := u64 (pgPage s.pg i).w } }).complete) ∧
      (i < s.pg.size.toNat →
        let k := i / 2 ^ s.pg.shift.toNat
        let v := s.args.a1.toNat
        let w := if v < 2 ^ (pgPage s.pg k).w then (pgPage s.pg k).w else bitlen v
        words s.pg.size.toNat s.pg.shift.toNat (pgNp s.pg) (fun k' => if k' = k then w else (pgPage s.pg k').w) ≤
          s.cfg.pgStoreWords →
        ∃ t, exec .pgSet s = .next t ∧
          t = ({ s with pg := { s.pg with pages := t.pg.pages }, res := { s.res with r0 := u64 w } }).complete ∧
          v < 2 ^ w ∧ pgNp t.pg = pgNp s.pg ∧
          (∀ k', k' < pgNp s.pg → (pgPage t.pg k').w = if k' = k then w else (pgPage s.pg k').w) ∧
          ∀ j, j < s.pg.size.toNat → pgValue t.pg j = if j = i then s.args.a1 else pgValue s.pg j))

/-- R395, R396: a resize or a growth of the paged array keeps the values below both sizes and the widths of the kept
pages, and reads 0 past the old size; `PG_GROW` at or below the size changes nothing. -/
def Obligations.PagedArrayResizeGrow : Prop :=
  ∀ s : State, s.pg.state = .ready → PgInv s.cfg s.pg →
    let sh := s.pg.shift.toNat
    let pages : Nat → Nat := fun m => (m + (2 ^ sh - 1)) / 2 ^ sh
    let width : Nat → Nat := fun k => if k < pgNp s.pg then (pgPage s.pg k).w else s.pg.bpv0.toNat
    let fits : Nat → Prop := fun m => pages m ≤ s.cfg.pgMaxPages ∧
      ((List.range (pages m)).map (fun k => (min (2 ^ sh) (m - k * 2 ^ sh) * width k + 63) / 64)).sum ≤ s.cfg.pgStoreWords
    let rebuilt : Nat → PagedArray → Prop := fun m g => g.state = .ready ∧ g.size = u64 m ∧ g.shift = s.pg.shift ∧
      g.bpv0 = s.pg.bpv0 ∧ pgNp g = pages m ∧ (∀ k, k < pages m → (pgPage g k).w = width k) ∧
      ∀ j, j < m → pgValue g j = if j < s.pg.size.toNat then pgValue s.pg j else 0
    (fits s.args.a0.toNat → ∃ t, exec .pgResize s = .next t ∧ t = ({ s with pg := t.pg }).complete ∧
      rebuilt s.args.a0.toNat t.pg) ∧
    (s.args.a0.toNat ≤ s.pg.size.toNat →
      exec .pgGrow s = .next ({ s with res := { s.res with r0 := s.pg.size } }).complete) ∧
    (s.pg.size.toNat < s.args.a0.toNat →
      let m := s.args.a0.toNat + max 3 (s.args.a0.toNat / 8)
      m < 2 ^ 64 → fits m → ∃ t, exec .pgGrow s = .next t ∧
        t = ({ s with pg := t.pg, res := { s.res with r0 := u64 m } }).complete ∧ rebuilt m t.pg)

/-- R398: no value is lost: after a successful set, resize or growth every index below both sizes reads what it read
before, except the one a set writes; a rejection for want of capacity changes no value, width or size. -/
def Obligations.ArraysLoseNoValue : Prop :=
  ∀ (s t : State) (i : Instr), s.status.err = false → GwInv s.cfg s.gw → PgInv s.cfg s.pg → exec i s = .next t →
    (i = .gwSet ∨ i = .gwResize → t.status.err = false →
      ∀ j, j < s.gw.size.toNat → j < t.gw.size.toNat → (i = .gwSet → j ≠ s.args.a0.toNat) →
        gwValue t.gw j = gwValue s.gw j) ∧
    (i = .pgSet ∨ i = .pgResize ∨ i = .pgGrow → t.status.err = false →
      ∀ j, j < s.pg.size.toNat → j < t.pg.size.toNat → (i = .pgSet → j ≠ s.args.a0.toNat) →
        pgValue t.pg j = pgValue s.pg j) ∧
    (t.status.err = true → t.status.errCode = 2 → t.gw = s.gw ∧ t.pg = s.pg)

/-! ## Elias-Fano encoder -/

/-- R180, R430, R433: `EFE_INIT` with operands in range and disjoint regions zeroes the regions, sets the context up for
an encoding and reports the sizes; nothing outside the regions changes. -/
def Obligations.EfeInitStartsEncoding : Prop :=
  ∀ s : State, s.mem.wf →
    let y := efLayoutOfArgs s.args
    let p := efParams y.n y.u y.i
    y.u ≤ 2 ^ 63 - 1 → 2 ≤ y.i → y.n ≤ s.cfg.efMaxValues →
    (∀ r ∈ efRegions y, r.2 = 0 ∨ (r.1 % 8 = 0 ∧ r.1 + r.2 ≤ s.cfg.memBytes)) → efOverlap y = false →
    ∃ t, exec .efeInit s = .next t ∧
      t = ({ s with
        mem := t.mem
        efe := { state := .encoding, n := s.args.a0, u := s.args.a1, i := s.args.a2, l := u64 p.l, e := u64 p.e,
                 nidx := u64 p.nidx, numEnc := 0, last := 0, ub := s.args.a3, lb := s.args.a4, ib := s.args.a5,
                 next := 0 }
        res := { r0 := u64 p.l, r1 := u64 p.uw, r2 := u64 p.lw, r3 := u64 p.iw } }).complete ∧
      (p.l = (if y.n = 0 ∨ y.u / y.n = 0 then 0 else Nat.log2 (y.u / y.n)) ∧ p.h = y.u / 2 ^ p.l ∧ p.nidx = p.h / y.i ∧
        y.n + p.h < 2 ^ p.e ∧ (p.e = 0 ∨ 2 ^ (p.e - 1) ≤ y.n + p.h) ∧ p.uw = (y.n + p.h + 63) / 64 ∧
        p.lw = (y.n * p.l + 63) / 64 ∧ p.iw = (p.nidx * p.e + 63) / 64) ∧
      (∀ r ∈ efRegions y, ∀ x, r.1 ≤ x → x < r.1 + r.2 → readByte t.mem x = 0) ∧
      sameOutsideRanges s.mem t.mem (efRegions y)

/-- R431, R432, R434: `EFE_ENCODE` of a value in order sets the one bit of its high part, stores its low bits, and writes
the index entries the value passes; every other bit of the regions and every other byte stays. -/
def Obligations.EfeEncodeStoresValue : Prop :=
  ∀ s : State, s.efe.state = .encoding → EfeInv s.cfg s.efe → s.mem.wf → efOverlap (efeLayout s.efe) = false →
    s.efe.numEnc ≠ s.efe.n → (s.efe.numEnc = 0 ∨ s.efe.last.toNat ≤ s.args.a0.toNat) →
    s.args.a0.toNat ≤ s.efe.u.toNat →
    let p := efParamsOf (efeLayout s.efe)
    let c := s.efe
    let x := s.args.a0.toNat
    let i := c.numEnc.toNat
    let passed := max c.next.toNat (min p.nidx (x / 2 ^ p.l / c.i.toNat))
    ∃ t, exec .efeEncode s = .next t ∧
      t = ({ s with
        mem := t.mem
        efe := { c with last := s.args.a0, numEnc := c.numEnc + 1, next := u64 passed }
        res := { s.res with r0 := c.numEnc + 1 } }).complete ∧
      sameOutsideRanges s.mem t.mem (efRegions (efeLayout c)) ∧
      (∀ q, q < 64 * p.uw → upperBit t.mem c.ub.toNat q = (upperBit s.mem c.ub.toNat q || decide (q = i + x / 2 ^ p.l))) ∧
      (∀ q, q < 64 * p.lw → streamBit t.mem c.lb.toNat q =
        if i * p.l ≤ q ∧ q < i * p.l + p.l then x.testBit (p.l - 1 - (q - i * p.l)) else streamBit s.mem c.lb.toNat q) ∧
      (∀ q, q < 64 * p.iw → streamBit t.mem c.ib.toNat q =
        if c.next.toNat * p.e ≤ q ∧ q < passed * p.e then
          ((q / p.e + 1) * c.i.toNat + i).testBit (p.e - 1 - q % p.e)
        else streamBit s.mem c.ib.toNat q)

/-- R435: `EFE_FINISH` after the declared number of values writes the index entries that are left and finishes the
encoder; every other bit of the regions and every other byte stays. -/
def Obligations.EfeFinishCompletesIndex : Prop :=
  ∀ s : State, s.efe.state = .encoding → EfeInv s.cfg s.efe → s.mem.wf → efOverlap (efeLayout s.efe) = false →
    s.efe.numEnc = s.efe.n →
    let p := efParamsOf (efeLayout s.efe)
    let c := s.efe
    ∃ t, exec .efeFinish s = .next t ∧
      t = ({ s with
        mem := t.mem
        efe := { c with next := c.nidx, state := .finished }
        res := { s.res with r0 := c.numEnc } }).complete ∧
      sameOutside s.mem t.mem c.ib.toNat (8 * p.iw) ∧
      ∀ q, q < 64 * p.iw → streamBit t.mem c.ib.toNat q =
        if c.next.toNat * p.e ≤ q ∧ q < p.nidx * p.e then
          ((q / p.e + 1) * c.i.toNat + c.n.toNat).testBit (p.e - 1 - q % p.e)
        else streamBit s.mem c.ib.toNat q

/-- R430, R433 to R435, R475: what the Elias-Fano commands reject, each with its ERRINFO and no effect: operands out of
range, a misaligned or outside region, a writer that is not encoding, too many values, a value out of order or above the
bound, an early finish. -/
def Obligations.EliasFanoRejects : Prop :=
  ∀ s : State,
    (∀ i ∈ [Instr.efeInit, .efdInit],
      let y := efLayoutOfArgs s.args
      (2 ^ 63 ≤ y.u → exec i s = .next (s.completeErr .invalidArgument s.args.a1)) ∧
      (y.u < 2 ^ 63 → y.i < 2 → exec i s = .next (s.completeErr .invalidArgument s.args.a2)) ∧
      (y.u < 2 ^ 63 → 2 ≤ y.i → s.cfg.efMaxValues < y.n →
        exec i s = .next (s.completeErr .capacityExceeded s.args.a0)) ∧
      (y.u < 2 ^ 63 → 2 ≤ y.i → y.n ≤ s.cfg.efMaxValues → ∀ before r after, efRegions y = before ++ r :: after →
        (∀ r' ∈ before, r'.2 = 0 ∨ (r'.1 % 8 = 0 ∧ r'.1 + r'.2 ≤ s.cfg.memBytes)) → r.2 ≠ 0 →
        (r.1 % 8 ≠ 0 → exec i s = .next (s.completeErr .alignmentFault (u64 r.1))) ∧
        (r.1 % 8 = 0 → s.cfg.memBytes < r.1 + r.2 →
          exec i s = .next (s.completeErr .accessFault (u64 (max r.1 s.cfg.memBytes)))))) ∧
    (∀ i ∈ [Instr.efeEncode, .efeFinish],
      (s.efe.state = .uninit → exec i s = .next (s.completeErr .notInitialized 0)) ∧
      (s.efe.state = .finished → exec i s = .next (s.completeErr .alreadyFinished 0))) ∧
    (s.efe.state = .encoding →
      (s.efe.numEnc = s.efe.n → exec .efeEncode s = .next (s.completeErr .capacityExceeded s.efe.n)) ∧
      (s.efe.numEnc ≠ s.efe.n →
        ((s.efe.numEnc ≠ 0 ∧ s.args.a0.toNat < s.efe.last.toNat) ∨ s.efe.u.toNat < s.args.a0.toNat →
          exec .efeEncode s = .next (s.completeErr .sequenceError s.args.a0)) ∧
        exec .efeFinish s = .next (s.completeErr .sequenceError s.efe.numEnc)))

/-- R185, R435, R484: encoding any non-decreasing sequence within its bound, over disjoint regions, runs to its end without
error and leaves an encoding that decodes to the sequence. -/
def Obligations.EncodedSequenceDecodes : Prop :=
  ∀ (s : State) (xs : List Word), s.mem.wf → s.cfg.legal →
    let y := efLayoutOfArgs s.args
    y.u ≤ 2 ^ 63 - 1 → 2 ≤ y.i → y.n ≤ s.cfg.efMaxValues →
    (∀ r ∈ efRegions y, r.2 = 0 ∨ (r.1 % 8 = 0 ∧ r.1 + r.2 ≤ s.cfg.memBytes)) → efOverlap y = false →
    xs.length = y.n → xs.Pairwise (fun a b => a.toNat ≤ b.toNat) → (∀ x ∈ xs, x.toNat ≤ y.u) →
    ∃ a b c, runOne .efeInit s = some a ∧ encodeAll xs a = some b ∧ runOne .efeFinish b = some c ∧
      efSequence c.mem y = some (xs.map BitVec.toNat)

/-! ## Elias-Fano decoder -/

/-- R185, R474: the sequence the decoder finds is the one sequence whose encoding the regions hold, and it finds it
whenever they are disjoint and hold one. That overlapping regions never count as holding one is the model's choice
(log 11). -/
def Obligations.DecodedSequenceIsTheEncoded : Prop :=
  ∀ (m : Memory) (y : EfLayout) (xs : List Nat), efSequence m y = some xs ↔
    (efOverlap y = false ∧ xs.length = y.n ∧ xs.Pairwise (· ≤ ·) ∧ (∀ x ∈ xs, x ≤ y.u) ∧
      (let p := efParams y.n y.u y.i
       (∀ q, q < 64 * p.uw → (upperBit m y.ub q = true ↔ ∃ i, i < xs.length ∧ q = i + xs.getD i 0 / 2 ^ p.l)) ∧
       (∀ q, q < 64 * p.lw → streamBit m y.lb q =
         (decide (q < y.n * p.l) && (xs.getD (q / p.l) 0).testBit (p.l - 1 - q % p.l))) ∧
       (∀ q, q < 64 * p.iw → streamBit m y.ib q = (decide (q < p.nidx * p.e) &&
         ((q / p.e + 1) * y.i + (xs.filter (fun x => decide (x / 2 ^ p.l < (q / p.e + 1) * y.i))).length).testBit
           (p.e - 1 - q % p.e)))))

/-- R475, R480: `EFD_INIT` with operands in range opens the decoder before the sequence, going forward, and
`EFD_TO_BEFORE` goes back there; neither touches the memory. That both are exact also over regions that overlap or hold no
valid encoding is the model's choice (logs 11, 12). -/
def Obligations.EfdInitOpens : Prop :=
  ∀ s : State,
    (let y := efLayoutOfArgs s.args
     let p := efParams y.n y.u y.i
     y.u ≤ 2 ^ 63 - 1 → 2 ≤ y.i → y.n ≤ s.cfg.efMaxValues →
     (∀ r ∈ efRegions y, r.2 = 0 ∨ (r.1 % 8 = 0 ∧ r.1 + r.2 ≤ s.cfg.memBytes)) →
     exec .efdInit s = .next ({ s with
       efd := { state := .ready, dir := .forward, n := s.args.a0, u := s.args.a1, i := s.args.a2, l := u64 p.l,
                e := u64 p.e, ub := s.args.a3, lb := s.args.a4, ib := s.args.a5, idx := -1, hp := -1 }
       res := { s.res with r0 := u64 p.l } }).complete) ∧
    (s.efd.state = .ready → exec .efdToBefore s = .next ({ s with
      efd := { s.efd with idx := -1, hp := -1, dir := .forward } }).complete)

/-- R471, R472, R476 to R479, R481, R482: over a valid encoding the movements go where their rules say, report the value
there or `NO_MORE_VALUES`, and keep the high position with the index; nothing else changes. -/
def Obligations.EfdMovements : Prop :=
  ∀ (s : State) (xs : List Nat), s.efd.state = .ready → efdSequence s = some xs →
    -1 ≤ s.efd.idx → s.efd.idx ≤ (xs.length : Int) →
    let moved : Instr → Int → Prop := fun i j => ∃ t, exec i s = .next t ∧
      t = ({ s with efd := { s.efd with idx := t.efd.idx, hp := t.efd.hp }
                    res := { s.res with r0 := t.res.r0, r1 := t.res.r1 } }).complete ∧
      reportedAt xs s.efd.l.toNat j t
    (s.efd.dir = .forward → moved .efdNext (min (s.efd.idx + 1) (xs.length : Int)) ∧
      ∃ j : Int, moved .efdAdvance j ∧ s.efd.idx < j + (if s.efd.idx = (xs.length : Int) then 1 else 0) ∧
        j ≤ (xs.length : Int) ∧
        (j < (xs.length : Int) → s.args.a0.toNat ≤ xs.getD j.toNat 0) ∧
        ∀ k : Nat, s.efd.idx < (k : Int) → (k : Int) < j → xs.getD k 0 < s.args.a0.toNat) ∧
    (s.efd.dir = .backward → moved .efdPrev (max (s.efd.idx - 1) (-1)) ∧
      ∃ j : Int, moved .efdBack j ∧ j < s.efd.idx + (if s.efd.idx = -1 then 1 else 0) ∧ -1 ≤ j ∧
        (0 ≤ j → xs.getD j.toNat 0 ≤ s.args.a0.toNat) ∧
        ∀ k : Nat, j < (k : Int) → (k : Int) < s.efd.idx → s.args.a0.toNat < xs.getD k 0) ∧
    (∃ t, exec .efdToAfter s = .next t ∧
      t = ({ s with efd := { s.efd with idx := (xs.length : Int), hp := t.efd.hp, dir := .backward } }).complete ∧
      t.efd.hp = (if xs = [] then 0 else (xs.length : Int) + ((xs.getLastD 0 / 2 ^ s.efd.l.toNat : Nat) : Int))) ∧
    ∃ t, exec .efdCurrent s = .next t ∧
      t = ({ s with res := { s.res with r0 := t.res.r0, r1 := u64i s.efd.idx } }).complete ∧
      t.res.r0 = (if 0 ≤ s.efd.idx ∧ s.efd.idx < (xs.length : Int) then u64 (xs.getD s.efd.idx.toNat 0)
        else 0xFFFFFFFFFFFFFFFF)

/-- R473: a movement against the direction is rejected with the direction as ERRINFO; only `EFD_INIT`, `EFD_TO_BEFORE`,
`EFD_TO_AFTER` and the reset of the unit change the direction; before `EFD_INIT` every command is rejected. -/
def Obligations.EfdDirections : Prop :=
  (∀ s : State, s.efd.state = .ready →
    (s.efd.dir = .backward → ∀ i ∈ [Instr.efdNext, .efdAdvance], exec i s = .next (s.completeErr .directionError 1)) ∧
    (s.efd.dir = .forward → ∀ i ∈ [Instr.efdPrev, .efdBack], exec i s = .next (s.completeErr .directionError 0))) ∧
  (∀ (s t : State) (i : Instr), exec i s = .next t → t.efd.dir ≠ s.efd.dir →
    (i = .efdInit ∧ t.efd.dir = .forward) ∨ (i = .efdToBefore ∧ t.efd.dir = .forward) ∨
    (i = .efdToAfter ∧ t.efd.dir = .backward) ∨ i = .unitReset) ∧
  ∀ s : State, s.efd.state = .uninit → ∀ i ∈ [Instr.efdNext, .efdAdvance, .efdPrev, .efdBack, .efdToBefore, .efdToAfter,
    .efdCurrent], exec i s = .next (s.completeErr .notInitialized 0)

/-! ## Invariants -/

/-- R100, R105, R590: whatever the next input is, a step keeps the data memory in its canonical form inside its bounds,
the regions that may still be written inside it, and the hazards empty while no command runs. -/
def Obligations.StepKeepsMemoryInv : Prop :=
  ∀ s t : State, MemoryInv s → HazardInv s → step s = .next t → MemoryInv t ∧ HazardInv t

/-- R47, R48, R260, R300: a step keeps what the spec says of the delta codec's contexts. -/
def Obligations.StepKeepsDeltaInv : Prop :=
  ∀ s t : State, DeInv s.de → DdInv s.dd → step s = .next t → DeInv t.de ∧ DdInv t.dd

/-- R49, R340, R343: a step keeps what the spec says of the growable append buffer, on a device whose block slots cannot
hold 2^64 values (R346: capacity runs out first). -/
def Obligations.StepKeepsGrowableBufferInv : Prop :=
  ∀ s t : State, s.cfg.gbMaxBlocks < 2 ^ 51 → GbInv s.cfg s.gb → step s = .next t → GbInv t.cfg t.gb

/-- R50, R51, R380, R390, R391: a step keeps what the spec says of the growable writer and the paged array: legal widths,
every value within its width, the stores within their limits. -/
def Obligations.StepKeepsArrayInv : Prop :=
  ∀ s t : State, GwInv s.cfg s.gw → PgInv s.cfg s.pg → step s = .next t → GwInv t.cfg t.gw ∧ PgInv t.cfg t.pg

/-- R580: the reset state has every invariant the steps keep. -/
def Obligations.ResetHasInvariants : Prop :=
  MemoryInv State.reset ∧ HazardInv State.reset ∧ DeInv State.reset.de ∧ DdInv State.reset.dd ∧
    GbInv State.reset.cfg State.reset.gb ∧ GwInv State.reset.cfg State.reset.gw ∧ PgInv State.reset.cfg State.reset.pg
end

