-- ==== Sys2Proof/Laws/Memory.lean ====
section
/-! SUPPORT. The laws of sparse cells and of the data memory: a read after a write, what a write leaves alone, and that
every operation keeps the canonical form. -/

namespace Sys2Proof.Machine

/-! ## Sparse cells -/

theorem cellGet_cellPut_other {w : Nat} (m : List (Nat × BitVec w)) (k j : Nat) (v : BitVec w) (h : j ≠ k) :
    cellGet (cellPut m k v) j = cellGet m j := by
  induction m with
  | nil =>
    simp only [cellPut]
    split
    · rfl
    · simp only [cellGet]
      rw [if_neg (Ne.symm h)]
  | cons c t ih =>
    obtain ⟨a, b⟩ := c
    simp only [cellPut]
    split
    · split
      · rfl
      · simp [cellGet, Ne.symm h]
    · split
      · rename_i hka
        subst hka
        split <;> simp [cellGet, Ne.symm h]
      · simp [cellGet, ih]

/-- Below every listed key nothing is listed. -/
theorem cellGet_eq_zero {w : Nat} (m : List (Nat × BitVec w)) (k : Nat) (h : ∀ c ∈ m, k < c.1) : cellGet m k = 0 := by
  induction m with
  | nil => rfl
  | cons c t ih =>
    have hc := h c (by simp)
    simp only [cellGet]
    rw [if_neg (by omega)]
    exact ih fun d hd => h d (by simp [hd])

theorem cellGet_cellPut_same {w : Nat} (m : List (Nat × BitVec w)) (k : Nat) (v : BitVec w)
    (h : m.Pairwise (fun x y => x.1 < y.1)) : cellGet (cellPut m k v) k = v := by
  induction m with
  | nil =>
    simp only [cellPut]
    split
    · rename_i hv
      exact hv.symm
    · exact if_pos rfl
  | cons c t ih =>
    obtain ⟨a, b⟩ := c
    rw [List.pairwise_cons] at h
    simp only [cellPut]
    split
    · rename_i hka
      split
      · rename_i hv
        subst hv
        refine cellGet_eq_zero _ k fun d hd => ?_
        rcases List.mem_cons.1 hd with rfl | hd
        · exact hka
        · exact lt_trans hka (h.1 d hd)
      · simp [cellGet]
    · split
      · rename_i hka
        subst hka
        split
        · rename_i hv
          subst hv
          exact cellGet_eq_zero _ k fun d hd => h.1 d hd
        · simp [cellGet]
      · rename_i h1 h2
        simp only [cellGet]
        rw [if_neg (Ne.symm h2)]
        exact ih h.2

theorem mem_cellPut {w : Nat} (m : List (Nat × BitVec w)) (k : Nat) (v : BitVec w) (c : Nat × BitVec w)
    (h : c ∈ cellPut m k v) : (c = (k, v) ∧ v ≠ 0) ∨ c ∈ m := by
  induction m with
  | nil =>
    simp only [cellPut] at h
    split at h <;> simp_all
  | cons d t ih =>
    obtain ⟨a, b⟩ := d
    simp only [cellPut] at h
    split at h
    · split at h
      · exact .inr h
      · rcases List.mem_cons.1 h with rfl | h
        · exact .inl ⟨rfl, ‹_›⟩
        · exact .inr h
    · split at h
      · split at h
        · exact .inr (List.mem_cons_of_mem _ h)
        · rcases List.mem_cons.1 h with rfl | h
          · exact .inl ⟨rfl, ‹_›⟩
          · exact .inr (List.mem_cons_of_mem _ h)
      · rcases List.mem_cons.1 h with rfl | h
        · exact .inr (by simp)
        · rcases ih h with h | h
          · exact .inl h
          · exact .inr (List.mem_cons_of_mem _ h)

theorem cellPut_sorted {w : Nat} (m : List (Nat × BitVec w)) (k : Nat) (v : BitVec w)
    (h : m.Pairwise (fun x y => x.1 < y.1)) : (cellPut m k v).Pairwise (fun x y => x.1 < y.1) := by
  induction m with
  | nil =>
    simp only [cellPut]
    split <;> simp
  | cons c t ih =>
    obtain ⟨a, b⟩ := c
    have h' := h
    rw [List.pairwise_cons] at h
    simp only [cellPut]
    split
    · rename_i hka
      split
      · exact h'
      · rw [List.pairwise_cons]
        refine ⟨fun d hd => ?_, h'⟩
        rcases List.mem_cons.1 hd with rfl | hd
        · exact hka
        · exact lt_trans hka (h.1 d hd)
    · split
      · rename_i hka
        subst hka
        split
        · exact h.2
        · exact List.pairwise_cons.2 h
      · rename_i h1 h2
        rw [List.pairwise_cons]
        refine ⟨fun d hd => ?_, ih h.2⟩
        rcases mem_cellPut t k v d hd with ⟨rfl, _⟩ | hd
        · show a < k
          omega
        · exact h.1 d hd

/-- A write of a sparse array keeps its canonical form below a bound that holds the key. -/
theorem cellPut_cellsOk (n : Nat) (m : List (Nat × Word)) (k : Nat) (v : Word) (h : cellsOk n m) (hk : k < n) :
    cellsOk n (cellPut m k v) := by
  refine ⟨cellPut_sorted m k v h.1, fun c hc => ?_⟩
  rcases mem_cellPut m k v c hc with ⟨rfl, hv⟩ | hc
  · exact ⟨hv, hk⟩
  · exact h.2 c hc

/-- Cutting a sparse array keeps its canonical form, below the new bound. -/
theorem cellBelow_cellsOk (n k : Nat) (m : List (Nat × Word)) (h : cellsOk n m) : cellsOk k (cellBelow m k) := by
  refine ⟨h.1.filter _, fun c hc => ?_⟩
  simp only [cellBelow, List.mem_filter, decide_eq_true_eq] at hc
  exact ⟨(h.2 c hc.1).1, hc.2⟩

theorem cellGet_cellBelow {w : Nat} (m : List (Nat × BitVec w)) (n j : Nat) :
    cellGet (cellBelow m n) j = if j < n then cellGet m j else 0 := by
  unfold cellBelow
  induction m with
  | nil => simp [cellGet]
  | cons c t ih =>
    obtain ⟨a, b⟩ := c
    by_cases ha : a < n
    · rw [List.filter_cons_of_pos (by simpa using ha)]
      simp only [cellGet, ih]
      by_cases hj : a = j
      · subst hj; simp [ha]
      · simp [hj]
    · rw [List.filter_cons_of_neg (by simpa using ha), ih]
      simp only [cellGet]
      by_cases hj : a = j
      · subst hj; simp [ha]
      · simp [hj]

theorem cellGet_of_cellsOk (n : Nat) (m : List (Nat × Word)) (h : cellsOk n m) (j : Nat) (hj : n ≤ j) :
    cellGet m j = 0 := by
  induction m with
  | nil => rfl
  | cons c t ih =>
    have hc := (h.2 c (by simp)).2
    simp only [cellGet]
    rw [if_neg (by omega)]
    exact ih ⟨(List.pairwise_cons.1 h.1).2, fun d hd => h.2 d (by simp [hd])⟩

/-! ## Bytes -/

theorem readByte_writeByte_same (m : Memory) (a : Nat) (b : Byte) (h : m.wf) : readByte (writeByte m a b) a = b :=
  cellGet_cellPut_same m a b h.1

theorem readByte_writeByte_other (m : Memory) (a x : Nat) (b : Byte) (h : x ≠ a) :
    readByte (writeByte m a b) x = readByte m x := cellGet_cellPut_other m a x b h

theorem writeByte_wf (m : Memory) (a : Nat) (b : Byte) (h : m.wf) : (writeByte m a b).wf := by
  refine ⟨cellPut_sorted m a b h.1, fun c hc => ?_⟩
  rcases mem_cellPut m a b c hc with ⟨rfl, hv⟩ | hc
  · exact hv
  · exact h.2 c hc

theorem mem_writeByte (m : Memory) (a n : Nat) (b : Byte) (ha : a < n) (h : ∀ c ∈ m, c.1 < n) :
    ∀ c ∈ writeByte m a b, c.1 < n := by
  intro c hc
  rcases mem_cellPut m a b c hc with ⟨rfl, -⟩ | hc
  · exact ha
  · exact h c hc

/-! ## What the memory operations leave alone -/

theorem sameOutside_refl (m : Memory) (a n : Nat) : sameOutside m m a n := fun _ _ => rfl

theorem sameOutside_memWrite (m : Memory) (a n v : Nat) : sameOutside m (memWrite m a n v) a n := by
  induction n generalizing v with
  | zero => exact sameOutside_refl m a 0
  | succ n ih =>
    intro x hx
    rw [memWrite, readByte_writeByte_other _ _ _ _ (by omega)]
    exact ih (v / 256) x (by omega)

theorem sameOutside_writeBytes (m : Memory) (a : Nat) (bs : List Byte) :
    sameOutside m (writeBytes m a bs) a bs.length := by
  induction bs generalizing m a with
  | nil => exact sameOutside_refl m a 0
  | cons b t ih =>
    intro x hx
    simp only [List.length_cons] at hx
    rw [writeBytes, ih (writeByte m a b) (a + 1) x (by omega), readByte_writeByte_other _ _ _ _ (by omega)]

theorem sameOutside_writeWords (m : Memory) (a : Nat) (vs : List Word) :
    sameOutside m (writeWords m a vs) a (8 * vs.length) := by
  induction vs generalizing m a with
  | nil => exact sameOutside_refl m a _
  | cons v t ih =>
    intro x hx
    simp only [List.length_cons] at hx
    rw [writeWords, ih (writeWord m a v) (a + 8) x (by omega)]
    exact sameOutside_memWrite m a 8 v.toNat x (by omega)

theorem sameOutside_havocBytes (m : Memory) (k a n : Nat) : sameOutside m (havocBytes m k a n) a n := by
  induction n with
  | zero => exact sameOutside_refl m a 0
  | succ n ih =>
    intro x hx
    rw [havocBytes, readByte_writeByte_other _ _ _ _ (by omega)]
    exact ih x (by omega)

/-! ## The canonical form is kept -/

theorem memWrite_wf (m : Memory) (a n v : Nat) (h : m.wf) : (memWrite m a n v).wf := by
  induction n generalizing v with
  | zero => exact h
  | succ n ih => exact writeByte_wf _ _ _ (ih (v / 256))

theorem writeWord_wf (m : Memory) (a : Nat) (v : Word) (h : m.wf) : (writeWord m a v).wf := memWrite_wf m a 8 _ h

theorem writeWords_wf (m : Memory) (a : Nat) (vs : List Word) (h : m.wf) : (writeWords m a vs).wf := by
  induction vs generalizing m a with
  | nil => exact h
  | cons v t ih => exact ih _ _ (writeWord_wf m a v h)

theorem writeBytes_wf (m : Memory) (a : Nat) (bs : List Byte) (h : m.wf) : (writeBytes m a bs).wf := by
  induction bs generalizing m a with
  | nil => exact h
  | cons b t ih => exact ih _ _ (writeByte_wf m a b h)

theorem zeroBytes_wf (m : Memory) (a n : Nat) (h : m.wf) : (zeroBytes m a n).wf := memWrite_wf m a n 0 h

theorem havocBytes_wf (m : Memory) (k a n : Nat) (h : m.wf) : (havocBytes m k a n).wf := by
  induction n with
  | zero => exact h
  | succ n ih => exact writeByte_wf _ _ _ ih

theorem havocRanges_wf (s : State) (rs : List (Nat × Nat)) (h : s.mem.wf) : (s.havocRanges rs).mem.wf := by
  induction rs generalizing s with
  | nil => exact h
  | cons r t ih => exact ih _ (havocBytes_wf _ _ _ _ h)

theorem reset_memory_wf : State.reset.mem.wf := by
  show Memory.wf []
  decide

/-! ## The bounds of the memory are kept -/

theorem memWrite_below (m : Memory) (a n v b : Nat) (hb : n = 0 ∨ a + n ≤ b) (h : ∀ c ∈ m, c.1 < b) :
    ∀ c ∈ memWrite m a n v, c.1 < b := by
  induction n generalizing v with
  | zero => exact h
  | succ n ih => exact mem_writeByte _ _ _ _ (by omega) (ih (v / 256) (by omega))

theorem writeWords_below (m : Memory) (a b : Nat) (vs : List Word) (hb : vs = [] ∨ a + 8 * vs.length ≤ b)
    (h : ∀ c ∈ m, c.1 < b) : ∀ c ∈ writeWords m a vs, c.1 < b := by
  induction vs generalizing m a with
  | nil => exact h
  | cons v t ih =>
    have hb' : a + 8 * (t.length + 1) ≤ b := by simpa using hb
    exact ih _ _ (.inr (by omega)) (memWrite_below m a 8 _ b (by omega) h)

theorem writeBytes_below (m : Memory) (a b : Nat) (bs : List Byte) (hb : bs = [] ∨ a + bs.length ≤ b)
    (h : ∀ c ∈ m, c.1 < b) : ∀ c ∈ writeBytes m a bs, c.1 < b := by
  induction bs generalizing m a with
  | nil => exact h
  | cons v t ih =>
    have hb' : a + (t.length + 1) ≤ b := by simpa using hb
    exact ih _ _ (.inr (by omega)) (mem_writeByte m a b v (by omega) h)

theorem havocBytes_below (m : Memory) (k a n b : Nat) (hb : n = 0 ∨ a + n ≤ b) (h : ∀ c ∈ m, c.1 < b) :
    ∀ c ∈ havocBytes m k a n, c.1 < b := by
  induction n with
  | zero => exact h
  | succ n ih => exact mem_writeByte _ _ _ _ (by omega) (ih (by omega))

/-! ## Reading what was written -/

theorem memRead_congr (m m' : Memory) (a n : Nat) (h : ∀ x, a ≤ x → x < a + n → readByte m' x = readByte m x) :
    memRead m' a n = memRead m a n := by
  induction n with
  | zero => rfl
  | succ n ih => rw [memRead, memRead, ih fun x h1 h2 => h x h1 (by omega), h (a + n) (by omega) (by omega)]

theorem memRead_lt (m : Memory) (a n : Nat) : memRead m a n < 256 ^ n := by
  induction n with
  | zero => simp [memRead]
  | succ n ih =>
    have := (readByte m (a + n)).isLt
    rw [memRead, Nat.pow_succ]
    omega

theorem memRead_memWrite (m : Memory) (a n v : Nat) (h : m.wf) : memRead (memWrite m a n v) a n = v % 256 ^ n := by
  induction n generalizing v with
  | zero => simp [memRead, Nat.mod_one]
  | succ n ih =>
    rw [memRead, memWrite, readByte_writeByte_same _ _ _ (memWrite_wf m a n _ h),
      memRead_congr (memWrite m a n (v / 256)) _ a n
        fun x h1 h2 => readByte_writeByte_other _ _ _ _ (by omega), ih]
    rw [BitVec.toNat_ofNat, show (2 : Nat) ^ 8 = 256 from rfl, Nat.pow_succ, Nat.mul_comm (256 ^ n) 256, Nat.mod_mul]
    omega

theorem readWord_writeWord (m : Memory) (a : Nat) (v : Word) (h : m.wf) : readWord (writeWord m a v) a = v := by
  apply BitVec.eq_of_toNat_eq
  have := v.isLt
  rw [readWord, writeWord, memRead_memWrite m a 8 _ h]
  simp only [BitVec.toNat_ofNat]
  omega

theorem readByte_writeBytes (m : Memory) (a : Nat) (bs : List Byte) (h : m.wf) : bytesAt (writeBytes m a bs) a bs := by
  induction bs generalizing m a with
  | nil => intro k hk; simp at hk
  | cons b t ih =>
    intro k hk
    rw [writeBytes]
    cases k with
    | zero =>
      rw [sameOutside_writeBytes (writeByte m a b) (a + 1) t (a + 0) (by omega)]
      simpa using readByte_writeByte_same m a b h
    | succ k =>
      have := ih (writeByte m a b) (a + 1) (writeByte_wf m a b h) k (by simpa using hk)
      rw [show a + (k + 1) = a + 1 + k by omega, this]
      simp

theorem readWord_writeWords (m : Memory) (a : Nat) (vs : List Word) (h : m.wf) (k : Nat) (hk : k < vs.length) :
    readWord (writeWords m a vs) (a + 8 * k) = vs.getD k 0 := by
  induction vs generalizing m a k with
  | nil => simp at hk
  | cons v t ih =>
    rw [writeWords]
    cases k with
    | zero =>
      rw [readWord, memRead_congr (writeWord m a v) _ (a + 8 * 0) 8
        fun x h1 h2 => sameOutside_writeWords (writeWord m a v) (a + 8) t x (by omega)]
      exact readWord_writeWord m a v h
    | succ k =>
      have := ih (writeWord m a v) (a + 8) (writeWord_wf m a v h) k (by simpa using hk)
      rw [show a + 8 * (k + 1) = a + 8 + 8 * k by omega, this]
      simp

end Sys2Proof.Machine
end

