-- ==== Sys2Proof/Laws/State.lean ====
section
/-! SUPPORT. What each update of the state does to each of its fields: one lemma per field, so that no proof unfolds a
record update. -/

namespace Sys2Proof.Machine

/-! ### `s.accept c` -/

@[simp] theorem State.accept_cfg (s : State) (c : Word) : (s.accept c).cfg = s.cfg := rfl
@[simp] theorem State.accept_status (s : State) (c : Word) : (s.accept c).status = statusAccept s.status c := rfl
@[simp] theorem State.accept_ctrl (s : State) (c : Word) : (s.accept c).ctrl = s.ctrl := rfl
@[simp] theorem State.accept_irq (s : State) (c : Word) : (s.accept c).irq = s.irq := rfl
@[simp] theorem State.accept_errInfo (s : State) (c : Word) : (s.accept c).errInfo = s.errInfo := rfl
@[simp] theorem State.accept_cmd (s : State) (c : Word) : (s.accept c).cmd = c := rfl
@[simp] theorem State.accept_args (s : State) (c : Word) : (s.accept c).args = s.args := rfl
@[simp] theorem State.accept_res (s : State) (c : Word) : (s.accept c).res = s.res := rfl
@[simp] theorem State.accept_inPtr (s : State) (c : Word) : (s.accept c).inPtr = s.inPtr := rfl
@[simp] theorem State.accept_inEnd (s : State) (c : Word) : (s.accept c).inEnd = s.inEnd := rfl
@[simp] theorem State.accept_outPtr (s : State) (c : Word) : (s.accept c).outPtr = s.outPtr := rfl
@[simp] theorem State.accept_outEnd (s : State) (c : Word) : (s.accept c).outEnd = s.outEnd := rfl
@[simp] theorem State.accept_de (s : State) (c : Word) : (s.accept c).de = s.de := rfl
@[simp] theorem State.accept_dd (s : State) (c : Word) : (s.accept c).dd = s.dd := rfl
@[simp] theorem State.accept_gb (s : State) (c : Word) : (s.accept c).gb = s.gb := rfl
@[simp] theorem State.accept_gw (s : State) (c : Word) : (s.accept c).gw = s.gw := rfl
@[simp] theorem State.accept_pg (s : State) (c : Word) : (s.accept c).pg = s.pg := rfl
@[simp] theorem State.accept_efe (s : State) (c : Word) : (s.accept c).efe = s.efe := rfl
@[simp] theorem State.accept_efd (s : State) (c : Word) : (s.accept c).efd = s.efd := rfl
@[simp] theorem State.accept_mem (s : State) (c : Word) : (s.accept c).mem = s.mem := rfl
@[simp] theorem State.accept_inputs (s : State) (c : Word) : (s.accept c).inputs = s.inputs := rfl
@[simp] theorem State.accept_hostData (s : State) (c : Word) : (s.accept c).hostData = s.hostData := rfl
@[simp] theorem State.accept_fresh (s : State) (c : Word) : (s.accept c).fresh = s.fresh := rfl
@[simp] theorem State.accept_hazard (s : State) (c : Word) : (s.accept c).hazard = s.hazard := rfl

/-! ### `s.complete` -/

@[simp] theorem State.complete_cfg (s : State) : (s.complete).cfg = s.cfg := rfl
@[simp] theorem State.complete_status (s : State) : (s.complete).status = statusComplete s.status := rfl
@[simp] theorem State.complete_ctrl (s : State) : (s.complete).ctrl = s.ctrl := rfl
@[simp] theorem State.complete_irq (s : State) : (s.complete).irq = irqComplete s.irq := rfl
@[simp] theorem State.complete_errInfo (s : State) : (s.complete).errInfo = s.errInfo := rfl
@[simp] theorem State.complete_cmd (s : State) : (s.complete).cmd = s.cmd := rfl
@[simp] theorem State.complete_args (s : State) : (s.complete).args = s.args := rfl
@[simp] theorem State.complete_res (s : State) : (s.complete).res = s.res := rfl
@[simp] theorem State.complete_inPtr (s : State) : (s.complete).inPtr = s.inPtr := rfl
@[simp] theorem State.complete_inEnd (s : State) : (s.complete).inEnd = s.inEnd := rfl
@[simp] theorem State.complete_outPtr (s : State) : (s.complete).outPtr = s.outPtr := rfl
@[simp] theorem State.complete_outEnd (s : State) : (s.complete).outEnd = s.outEnd := rfl
@[simp] theorem State.complete_de (s : State) : (s.complete).de = s.de := rfl
@[simp] theorem State.complete_dd (s : State) : (s.complete).dd = s.dd := rfl
@[simp] theorem State.complete_gb (s : State) : (s.complete).gb = s.gb := rfl
@[simp] theorem State.complete_gw (s : State) : (s.complete).gw = s.gw := rfl
@[simp] theorem State.complete_pg (s : State) : (s.complete).pg = s.pg := rfl
@[simp] theorem State.complete_efe (s : State) : (s.complete).efe = s.efe := rfl
@[simp] theorem State.complete_efd (s : State) : (s.complete).efd = s.efd := rfl
@[simp] theorem State.complete_mem (s : State) : (s.complete).mem = s.mem := rfl
@[simp] theorem State.complete_inputs (s : State) : (s.complete).inputs = s.inputs := rfl
@[simp] theorem State.complete_hostData (s : State) : (s.complete).hostData = s.hostData := rfl
@[simp] theorem State.complete_fresh (s : State) : (s.complete).fresh = s.fresh := rfl
@[simp] theorem State.complete_hazard (s : State) : (s.complete).hazard = s.hazard := rfl

/-! ### `s.completeErr e v` -/

@[simp] theorem State.completeErr_cfg (s : State) (e : ErrCode) (v : Word) : (s.completeErr e v).cfg = s.cfg := rfl
@[simp] theorem State.completeErr_status (s : State) (e : ErrCode) (v : Word) : (s.completeErr e v).status = statusCompleteErr s.status e := rfl
@[simp] theorem State.completeErr_ctrl (s : State) (e : ErrCode) (v : Word) : (s.completeErr e v).ctrl = s.ctrl := rfl
@[simp] theorem State.completeErr_irq (s : State) (e : ErrCode) (v : Word) : (s.completeErr e v).irq = irqCompleteErr s.irq := rfl
@[simp] theorem State.completeErr_errInfo (s : State) (e : ErrCode) (v : Word) : (s.completeErr e v).errInfo = v := rfl
@[simp] theorem State.completeErr_cmd (s : State) (e : ErrCode) (v : Word) : (s.completeErr e v).cmd = s.cmd := rfl
@[simp] theorem State.completeErr_args (s : State) (e : ErrCode) (v : Word) : (s.completeErr e v).args = s.args := rfl
@[simp] theorem State.completeErr_res (s : State) (e : ErrCode) (v : Word) : (s.completeErr e v).res = s.res := rfl
@[simp] theorem State.completeErr_inPtr (s : State) (e : ErrCode) (v : Word) : (s.completeErr e v).inPtr = s.inPtr := rfl
@[simp] theorem State.completeErr_inEnd (s : State) (e : ErrCode) (v : Word) : (s.completeErr e v).inEnd = s.inEnd := rfl
@[simp] theorem State.completeErr_outPtr (s : State) (e : ErrCode) (v : Word) : (s.completeErr e v).outPtr = s.outPtr := rfl
@[simp] theorem State.completeErr_outEnd (s : State) (e : ErrCode) (v : Word) : (s.completeErr e v).outEnd = s.outEnd := rfl
@[simp] theorem State.completeErr_de (s : State) (e : ErrCode) (v : Word) : (s.completeErr e v).de = s.de := rfl
@[simp] theorem State.completeErr_dd (s : State) (e : ErrCode) (v : Word) : (s.completeErr e v).dd = s.dd := rfl
@[simp] theorem State.completeErr_gb (s : State) (e : ErrCode) (v : Word) : (s.completeErr e v).gb = s.gb := rfl
@[simp] theorem State.completeErr_gw (s : State) (e : ErrCode) (v : Word) : (s.completeErr e v).gw = s.gw := rfl
@[simp] theorem State.completeErr_pg (s : State) (e : ErrCode) (v : Word) : (s.completeErr e v).pg = s.pg := rfl
@[simp] theorem State.completeErr_efe (s : State) (e : ErrCode) (v : Word) : (s.completeErr e v).efe = s.efe := rfl
@[simp] theorem State.completeErr_efd (s : State) (e : ErrCode) (v : Word) : (s.completeErr e v).efd = s.efd := rfl
@[simp] theorem State.completeErr_mem (s : State) (e : ErrCode) (v : Word) : (s.completeErr e v).mem = s.mem := rfl
@[simp] theorem State.completeErr_inputs (s : State) (e : ErrCode) (v : Word) : (s.completeErr e v).inputs = s.inputs := rfl
@[simp] theorem State.completeErr_hostData (s : State) (e : ErrCode) (v : Word) : (s.completeErr e v).hostData = s.hostData := rfl
@[simp] theorem State.completeErr_fresh (s : State) (e : ErrCode) (v : Word) : (s.completeErr e v).fresh = s.fresh := rfl
@[simp] theorem State.completeErr_hazard (s : State) (e : ErrCode) (v : Word) : (s.completeErr e v).hazard = s.hazard := rfl

/-! ### `s.setRes0 v` -/

@[simp] theorem State.setRes0_cfg (s : State) (v : Word) : (s.setRes0 v).cfg = s.cfg := rfl
@[simp] theorem State.setRes0_status (s : State) (v : Word) : (s.setRes0 v).status = s.status := rfl
@[simp] theorem State.setRes0_ctrl (s : State) (v : Word) : (s.setRes0 v).ctrl = s.ctrl := rfl
@[simp] theorem State.setRes0_irq (s : State) (v : Word) : (s.setRes0 v).irq = s.irq := rfl
@[simp] theorem State.setRes0_errInfo (s : State) (v : Word) : (s.setRes0 v).errInfo = s.errInfo := rfl
@[simp] theorem State.setRes0_cmd (s : State) (v : Word) : (s.setRes0 v).cmd = s.cmd := rfl
@[simp] theorem State.setRes0_args (s : State) (v : Word) : (s.setRes0 v).args = s.args := rfl
@[simp] theorem State.setRes0_res (s : State) (v : Word) : (s.setRes0 v).res = { s.res with r0 := v } := rfl
@[simp] theorem State.setRes0_inPtr (s : State) (v : Word) : (s.setRes0 v).inPtr = s.inPtr := rfl
@[simp] theorem State.setRes0_inEnd (s : State) (v : Word) : (s.setRes0 v).inEnd = s.inEnd := rfl
@[simp] theorem State.setRes0_outPtr (s : State) (v : Word) : (s.setRes0 v).outPtr = s.outPtr := rfl
@[simp] theorem State.setRes0_outEnd (s : State) (v : Word) : (s.setRes0 v).outEnd = s.outEnd := rfl
@[simp] theorem State.setRes0_de (s : State) (v : Word) : (s.setRes0 v).de = s.de := rfl
@[simp] theorem State.setRes0_dd (s : State) (v : Word) : (s.setRes0 v).dd = s.dd := rfl
@[simp] theorem State.setRes0_gb (s : State) (v : Word) : (s.setRes0 v).gb = s.gb := rfl
@[simp] theorem State.setRes0_gw (s : State) (v : Word) : (s.setRes0 v).gw = s.gw := rfl
@[simp] theorem State.setRes0_pg (s : State) (v : Word) : (s.setRes0 v).pg = s.pg := rfl
@[simp] theorem State.setRes0_efe (s : State) (v : Word) : (s.setRes0 v).efe = s.efe := rfl
@[simp] theorem State.setRes0_efd (s : State) (v : Word) : (s.setRes0 v).efd = s.efd := rfl
@[simp] theorem State.setRes0_mem (s : State) (v : Word) : (s.setRes0 v).mem = s.mem := rfl
@[simp] theorem State.setRes0_inputs (s : State) (v : Word) : (s.setRes0 v).inputs = s.inputs := rfl
@[simp] theorem State.setRes0_hostData (s : State) (v : Word) : (s.setRes0 v).hostData = s.hostData := rfl
@[simp] theorem State.setRes0_fresh (s : State) (v : Word) : (s.setRes0 v).fresh = s.fresh := rfl
@[simp] theorem State.setRes0_hazard (s : State) (v : Word) : (s.setRes0 v).hazard = s.hazard := rfl

/-! ### `s.setRes1 v` -/

@[simp] theorem State.setRes1_cfg (s : State) (v : Word) : (s.setRes1 v).cfg = s.cfg := rfl
@[simp] theorem State.setRes1_status (s : State) (v : Word) : (s.setRes1 v).status = s.status := rfl
@[simp] theorem State.setRes1_ctrl (s : State) (v : Word) : (s.setRes1 v).ctrl = s.ctrl := rfl
@[simp] theorem State.setRes1_irq (s : State) (v : Word) : (s.setRes1 v).irq = s.irq := rfl
@[simp] theorem State.setRes1_errInfo (s : State) (v : Word) : (s.setRes1 v).errInfo = s.errInfo := rfl
@[simp] theorem State.setRes1_cmd (s : State) (v : Word) : (s.setRes1 v).cmd = s.cmd := rfl
@[simp] theorem State.setRes1_args (s : State) (v : Word) : (s.setRes1 v).args = s.args := rfl
@[simp] theorem State.setRes1_res (s : State) (v : Word) : (s.setRes1 v).res = { s.res with r1 := v } := rfl
@[simp] theorem State.setRes1_inPtr (s : State) (v : Word) : (s.setRes1 v).inPtr = s.inPtr := rfl
@[simp] theorem State.setRes1_inEnd (s : State) (v : Word) : (s.setRes1 v).inEnd = s.inEnd := rfl
@[simp] theorem State.setRes1_outPtr (s : State) (v : Word) : (s.setRes1 v).outPtr = s.outPtr := rfl
@[simp] theorem State.setRes1_outEnd (s : State) (v : Word) : (s.setRes1 v).outEnd = s.outEnd := rfl
@[simp] theorem State.setRes1_de (s : State) (v : Word) : (s.setRes1 v).de = s.de := rfl
@[simp] theorem State.setRes1_dd (s : State) (v : Word) : (s.setRes1 v).dd = s.dd := rfl
@[simp] theorem State.setRes1_gb (s : State) (v : Word) : (s.setRes1 v).gb = s.gb := rfl
@[simp] theorem State.setRes1_gw (s : State) (v : Word) : (s.setRes1 v).gw = s.gw := rfl
@[simp] theorem State.setRes1_pg (s : State) (v : Word) : (s.setRes1 v).pg = s.pg := rfl
@[simp] theorem State.setRes1_efe (s : State) (v : Word) : (s.setRes1 v).efe = s.efe := rfl
@[simp] theorem State.setRes1_efd (s : State) (v : Word) : (s.setRes1 v).efd = s.efd := rfl
@[simp] theorem State.setRes1_mem (s : State) (v : Word) : (s.setRes1 v).mem = s.mem := rfl
@[simp] theorem State.setRes1_inputs (s : State) (v : Word) : (s.setRes1 v).inputs = s.inputs := rfl
@[simp] theorem State.setRes1_hostData (s : State) (v : Word) : (s.setRes1 v).hostData = s.hostData := rfl
@[simp] theorem State.setRes1_fresh (s : State) (v : Word) : (s.setRes1 v).fresh = s.fresh := rfl
@[simp] theorem State.setRes1_hazard (s : State) (v : Word) : (s.setRes1 v).hazard = s.hazard := rfl

/-! ### `s.setRes2 v` -/

@[simp] theorem State.setRes2_cfg (s : State) (v : Word) : (s.setRes2 v).cfg = s.cfg := rfl
@[simp] theorem State.setRes2_status (s : State) (v : Word) : (s.setRes2 v).status = s.status := rfl
@[simp] theorem State.setRes2_ctrl (s : State) (v : Word) : (s.setRes2 v).ctrl = s.ctrl := rfl
@[simp] theorem State.setRes2_irq (s : State) (v : Word) : (s.setRes2 v).irq = s.irq := rfl
@[simp] theorem State.setRes2_errInfo (s : State) (v : Word) : (s.setRes2 v).errInfo = s.errInfo := rfl
@[simp] theorem State.setRes2_cmd (s : State) (v : Word) : (s.setRes2 v).cmd = s.cmd := rfl
@[simp] theorem State.setRes2_args (s : State) (v : Word) : (s.setRes2 v).args = s.args := rfl
@[simp] theorem State.setRes2_res (s : State) (v : Word) : (s.setRes2 v).res = { s.res with r2 := v } := rfl
@[simp] theorem State.setRes2_inPtr (s : State) (v : Word) : (s.setRes2 v).inPtr = s.inPtr := rfl
@[simp] theorem State.setRes2_inEnd (s : State) (v : Word) : (s.setRes2 v).inEnd = s.inEnd := rfl
@[simp] theorem State.setRes2_outPtr (s : State) (v : Word) : (s.setRes2 v).outPtr = s.outPtr := rfl
@[simp] theorem State.setRes2_outEnd (s : State) (v : Word) : (s.setRes2 v).outEnd = s.outEnd := rfl
@[simp] theorem State.setRes2_de (s : State) (v : Word) : (s.setRes2 v).de = s.de := rfl
@[simp] theorem State.setRes2_dd (s : State) (v : Word) : (s.setRes2 v).dd = s.dd := rfl
@[simp] theorem State.setRes2_gb (s : State) (v : Word) : (s.setRes2 v).gb = s.gb := rfl
@[simp] theorem State.setRes2_gw (s : State) (v : Word) : (s.setRes2 v).gw = s.gw := rfl
@[simp] theorem State.setRes2_pg (s : State) (v : Word) : (s.setRes2 v).pg = s.pg := rfl
@[simp] theorem State.setRes2_efe (s : State) (v : Word) : (s.setRes2 v).efe = s.efe := rfl
@[simp] theorem State.setRes2_efd (s : State) (v : Word) : (s.setRes2 v).efd = s.efd := rfl
@[simp] theorem State.setRes2_mem (s : State) (v : Word) : (s.setRes2 v).mem = s.mem := rfl
@[simp] theorem State.setRes2_inputs (s : State) (v : Word) : (s.setRes2 v).inputs = s.inputs := rfl
@[simp] theorem State.setRes2_hostData (s : State) (v : Word) : (s.setRes2 v).hostData = s.hostData := rfl
@[simp] theorem State.setRes2_fresh (s : State) (v : Word) : (s.setRes2 v).fresh = s.fresh := rfl
@[simp] theorem State.setRes2_hazard (s : State) (v : Word) : (s.setRes2 v).hazard = s.hazard := rfl

/-! ### `s.setRes3 v` -/

@[simp] theorem State.setRes3_cfg (s : State) (v : Word) : (s.setRes3 v).cfg = s.cfg := rfl
@[simp] theorem State.setRes3_status (s : State) (v : Word) : (s.setRes3 v).status = s.status := rfl
@[simp] theorem State.setRes3_ctrl (s : State) (v : Word) : (s.setRes3 v).ctrl = s.ctrl := rfl
@[simp] theorem State.setRes3_irq (s : State) (v : Word) : (s.setRes3 v).irq = s.irq := rfl
@[simp] theorem State.setRes3_errInfo (s : State) (v : Word) : (s.setRes3 v).errInfo = s.errInfo := rfl
@[simp] theorem State.setRes3_cmd (s : State) (v : Word) : (s.setRes3 v).cmd = s.cmd := rfl
@[simp] theorem State.setRes3_args (s : State) (v : Word) : (s.setRes3 v).args = s.args := rfl
@[simp] theorem State.setRes3_res (s : State) (v : Word) : (s.setRes3 v).res = { s.res with r3 := v } := rfl
@[simp] theorem State.setRes3_inPtr (s : State) (v : Word) : (s.setRes3 v).inPtr = s.inPtr := rfl
@[simp] theorem State.setRes3_inEnd (s : State) (v : Word) : (s.setRes3 v).inEnd = s.inEnd := rfl
@[simp] theorem State.setRes3_outPtr (s : State) (v : Word) : (s.setRes3 v).outPtr = s.outPtr := rfl
@[simp] theorem State.setRes3_outEnd (s : State) (v : Word) : (s.setRes3 v).outEnd = s.outEnd := rfl
@[simp] theorem State.setRes3_de (s : State) (v : Word) : (s.setRes3 v).de = s.de := rfl
@[simp] theorem State.setRes3_dd (s : State) (v : Word) : (s.setRes3 v).dd = s.dd := rfl
@[simp] theorem State.setRes3_gb (s : State) (v : Word) : (s.setRes3 v).gb = s.gb := rfl
@[simp] theorem State.setRes3_gw (s : State) (v : Word) : (s.setRes3 v).gw = s.gw := rfl
@[simp] theorem State.setRes3_pg (s : State) (v : Word) : (s.setRes3 v).pg = s.pg := rfl
@[simp] theorem State.setRes3_efe (s : State) (v : Word) : (s.setRes3 v).efe = s.efe := rfl
@[simp] theorem State.setRes3_efd (s : State) (v : Word) : (s.setRes3 v).efd = s.efd := rfl
@[simp] theorem State.setRes3_mem (s : State) (v : Word) : (s.setRes3 v).mem = s.mem := rfl
@[simp] theorem State.setRes3_inputs (s : State) (v : Word) : (s.setRes3 v).inputs = s.inputs := rfl
@[simp] theorem State.setRes3_hostData (s : State) (v : Word) : (s.setRes3 v).hostData = s.hostData := rfl
@[simp] theorem State.setRes3_fresh (s : State) (v : Word) : (s.setRes3 v).fresh = s.fresh := rfl
@[simp] theorem State.setRes3_hazard (s : State) (v : Word) : (s.setRes3 v).hazard = s.hazard := rfl

/-! ### `s.drew n` -/

@[simp] theorem State.drew_cfg (s : State) (n : Nat) : (s.drew n).cfg = s.cfg := rfl
@[simp] theorem State.drew_status (s : State) (n : Nat) : (s.drew n).status = s.status := rfl
@[simp] theorem State.drew_ctrl (s : State) (n : Nat) : (s.drew n).ctrl = s.ctrl := rfl
@[simp] theorem State.drew_irq (s : State) (n : Nat) : (s.drew n).irq = s.irq := rfl
@[simp] theorem State.drew_errInfo (s : State) (n : Nat) : (s.drew n).errInfo = s.errInfo := rfl
@[simp] theorem State.drew_cmd (s : State) (n : Nat) : (s.drew n).cmd = s.cmd := rfl
@[simp] theorem State.drew_args (s : State) (n : Nat) : (s.drew n).args = s.args := rfl
@[simp] theorem State.drew_res (s : State) (n : Nat) : (s.drew n).res = s.res := rfl
@[simp] theorem State.drew_inPtr (s : State) (n : Nat) : (s.drew n).inPtr = s.inPtr := rfl
@[simp] theorem State.drew_inEnd (s : State) (n : Nat) : (s.drew n).inEnd = s.inEnd := rfl
@[simp] theorem State.drew_outPtr (s : State) (n : Nat) : (s.drew n).outPtr = s.outPtr := rfl
@[simp] theorem State.drew_outEnd (s : State) (n : Nat) : (s.drew n).outEnd = s.outEnd := rfl
@[simp] theorem State.drew_de (s : State) (n : Nat) : (s.drew n).de = s.de := rfl
@[simp] theorem State.drew_dd (s : State) (n : Nat) : (s.drew n).dd = s.dd := rfl
@[simp] theorem State.drew_gb (s : State) (n : Nat) : (s.drew n).gb = s.gb := rfl
@[simp] theorem State.drew_gw (s : State) (n : Nat) : (s.drew n).gw = s.gw := rfl
@[simp] theorem State.drew_pg (s : State) (n : Nat) : (s.drew n).pg = s.pg := rfl
@[simp] theorem State.drew_efe (s : State) (n : Nat) : (s.drew n).efe = s.efe := rfl
@[simp] theorem State.drew_efd (s : State) (n : Nat) : (s.drew n).efd = s.efd := rfl
@[simp] theorem State.drew_mem (s : State) (n : Nat) : (s.drew n).mem = s.mem := rfl
@[simp] theorem State.drew_inputs (s : State) (n : Nat) : (s.drew n).inputs = s.inputs := rfl
@[simp] theorem State.drew_hostData (s : State) (n : Nat) : (s.drew n).hostData = s.hostData := rfl
@[simp] theorem State.drew_fresh (s : State) (n : Nat) : (s.drew n).fresh = s.fresh + n := rfl
@[simp] theorem State.drew_hazard (s : State) (n : Nat) : (s.drew n).hazard = s.hazard := rfl

/-! ### `s.havoc a n` -/

@[simp] theorem State.havoc_cfg (s : State) (a n : Nat) : (s.havoc a n).cfg = s.cfg := rfl
@[simp] theorem State.havoc_status (s : State) (a n : Nat) : (s.havoc a n).status = s.status := rfl
@[simp] theorem State.havoc_ctrl (s : State) (a n : Nat) : (s.havoc a n).ctrl = s.ctrl := rfl
@[simp] theorem State.havoc_irq (s : State) (a n : Nat) : (s.havoc a n).irq = s.irq := rfl
@[simp] theorem State.havoc_errInfo (s : State) (a n : Nat) : (s.havoc a n).errInfo = s.errInfo := rfl
@[simp] theorem State.havoc_cmd (s : State) (a n : Nat) : (s.havoc a n).cmd = s.cmd := rfl
@[simp] theorem State.havoc_args (s : State) (a n : Nat) : (s.havoc a n).args = s.args := rfl
@[simp] theorem State.havoc_res (s : State) (a n : Nat) : (s.havoc a n).res = s.res := rfl
@[simp] theorem State.havoc_inPtr (s : State) (a n : Nat) : (s.havoc a n).inPtr = s.inPtr := rfl
@[simp] theorem State.havoc_inEnd (s : State) (a n : Nat) : (s.havoc a n).inEnd = s.inEnd := rfl
@[simp] theorem State.havoc_outPtr (s : State) (a n : Nat) : (s.havoc a n).outPtr = s.outPtr := rfl
@[simp] theorem State.havoc_outEnd (s : State) (a n : Nat) : (s.havoc a n).outEnd = s.outEnd := rfl
@[simp] theorem State.havoc_de (s : State) (a n : Nat) : (s.havoc a n).de = s.de := rfl
@[simp] theorem State.havoc_dd (s : State) (a n : Nat) : (s.havoc a n).dd = s.dd := rfl
@[simp] theorem State.havoc_gb (s : State) (a n : Nat) : (s.havoc a n).gb = s.gb := rfl
@[simp] theorem State.havoc_gw (s : State) (a n : Nat) : (s.havoc a n).gw = s.gw := rfl
@[simp] theorem State.havoc_pg (s : State) (a n : Nat) : (s.havoc a n).pg = s.pg := rfl
@[simp] theorem State.havoc_efe (s : State) (a n : Nat) : (s.havoc a n).efe = s.efe := rfl
@[simp] theorem State.havoc_efd (s : State) (a n : Nat) : (s.havoc a n).efd = s.efd := rfl
@[simp] theorem State.havoc_mem (s : State) (a n : Nat) : (s.havoc a n).mem = havocBytes s.mem s.fresh a n := rfl
@[simp] theorem State.havoc_inputs (s : State) (a n : Nat) : (s.havoc a n).inputs = s.inputs := rfl
@[simp] theorem State.havoc_hostData (s : State) (a n : Nat) : (s.havoc a n).hostData = s.hostData := rfl
@[simp] theorem State.havoc_fresh (s : State) (a n : Nat) : (s.havoc a n).fresh = s.fresh + n := rfl
@[simp] theorem State.havoc_hazard (s : State) (a n : Nat) : (s.havoc a n).hazard = s.hazard := rfl

/-! ### `s.emit bs` -/

@[simp] theorem State.emit_cfg (s : State) (bs : List Byte) : (s.emit bs).cfg = s.cfg := rfl
@[simp] theorem State.emit_status (s : State) (bs : List Byte) : (s.emit bs).status = s.status := rfl
@[simp] theorem State.emit_ctrl (s : State) (bs : List Byte) : (s.emit bs).ctrl = s.ctrl := rfl
@[simp] theorem State.emit_irq (s : State) (bs : List Byte) : (s.emit bs).irq = s.irq := rfl
@[simp] theorem State.emit_errInfo (s : State) (bs : List Byte) : (s.emit bs).errInfo = s.errInfo := rfl
@[simp] theorem State.emit_cmd (s : State) (bs : List Byte) : (s.emit bs).cmd = s.cmd := rfl
@[simp] theorem State.emit_args (s : State) (bs : List Byte) : (s.emit bs).args = s.args := rfl
@[simp] theorem State.emit_res (s : State) (bs : List Byte) : (s.emit bs).res = s.res := rfl
@[simp] theorem State.emit_inPtr (s : State) (bs : List Byte) : (s.emit bs).inPtr = s.inPtr := rfl
@[simp] theorem State.emit_inEnd (s : State) (bs : List Byte) : (s.emit bs).inEnd = s.inEnd := rfl
@[simp] theorem State.emit_outPtr (s : State) (bs : List Byte) : (s.emit bs).outPtr = u64 (s.outPtr.toNat + bs.length) := rfl
@[simp] theorem State.emit_outEnd (s : State) (bs : List Byte) : (s.emit bs).outEnd = s.outEnd := rfl
@[simp] theorem State.emit_de (s : State) (bs : List Byte) : (s.emit bs).de = s.de := rfl
@[simp] theorem State.emit_dd (s : State) (bs : List Byte) : (s.emit bs).dd = s.dd := rfl
@[simp] theorem State.emit_gb (s : State) (bs : List Byte) : (s.emit bs).gb = s.gb := rfl
@[simp] theorem State.emit_gw (s : State) (bs : List Byte) : (s.emit bs).gw = s.gw := rfl
@[simp] theorem State.emit_pg (s : State) (bs : List Byte) : (s.emit bs).pg = s.pg := rfl
@[simp] theorem State.emit_efe (s : State) (bs : List Byte) : (s.emit bs).efe = s.efe := rfl
@[simp] theorem State.emit_efd (s : State) (bs : List Byte) : (s.emit bs).efd = s.efd := rfl
@[simp] theorem State.emit_mem (s : State) (bs : List Byte) : (s.emit bs).mem = writeBytes s.mem s.outPtr.toNat bs := rfl
@[simp] theorem State.emit_inputs (s : State) (bs : List Byte) : (s.emit bs).inputs = s.inputs := rfl
@[simp] theorem State.emit_hostData (s : State) (bs : List Byte) : (s.emit bs).hostData = s.hostData := rfl
@[simp] theorem State.emit_fresh (s : State) (bs : List Byte) : (s.emit bs).fresh = s.fresh := rfl
@[simp] theorem State.emit_hazard (s : State) (bs : List Byte) : (s.emit bs).hazard = s.hazard := rfl

/-! ### `s.poison` -/

@[simp] theorem State.poison_cfg (s : State) : (s.poison).cfg = s.cfg := rfl
@[simp] theorem State.poison_status (s : State) : (s.poison).status = s.status := rfl
@[simp] theorem State.poison_ctrl (s : State) : (s.poison).ctrl = s.ctrl := rfl
@[simp] theorem State.poison_irq (s : State) : (s.poison).irq = s.irq := rfl
@[simp] theorem State.poison_errInfo (s : State) : (s.poison).errInfo = s.errInfo := rfl
@[simp] theorem State.poison_cmd (s : State) : (s.poison).cmd = s.cmd := rfl
@[simp] theorem State.poison_args (s : State) : (s.poison).args = s.args := rfl
@[simp] theorem State.poison_res (s : State) : (s.poison).res = s.res := rfl
@[simp] theorem State.poison_inPtr (s : State) : (s.poison).inPtr = s.free 0 := rfl
@[simp] theorem State.poison_inEnd (s : State) : (s.poison).inEnd = s.inEnd := rfl
@[simp] theorem State.poison_outPtr (s : State) : (s.poison).outPtr = s.outPtr := rfl
@[simp] theorem State.poison_outEnd (s : State) : (s.poison).outEnd = s.outEnd := rfl
@[simp] theorem State.poison_de (s : State) : (s.poison).de = s.de := rfl
@[simp] theorem State.poison_dd (s : State) : (s.poison).dd = { s.dd with state := .poisoned, ord := s.free 1, off := s.free 2, buf := (List.range s.dd.blockSize.toNat).map (fun k => s.free (3 + k)) } := rfl
@[simp] theorem State.poison_gb (s : State) : (s.poison).gb = s.gb := rfl
@[simp] theorem State.poison_gw (s : State) : (s.poison).gw = s.gw := rfl
@[simp] theorem State.poison_pg (s : State) : (s.poison).pg = s.pg := rfl
@[simp] theorem State.poison_efe (s : State) : (s.poison).efe = s.efe := rfl
@[simp] theorem State.poison_efd (s : State) : (s.poison).efd = s.efd := rfl
@[simp] theorem State.poison_mem (s : State) : (s.poison).mem = s.mem := rfl
@[simp] theorem State.poison_inputs (s : State) : (s.poison).inputs = s.inputs := rfl
@[simp] theorem State.poison_hostData (s : State) : (s.poison).hostData = s.hostData := rfl
@[simp] theorem State.poison_fresh (s : State) : (s.poison).fresh = s.fresh + (3 + s.dd.blockSize.toNat) := rfl
@[simp] theorem State.poison_hazard (s : State) : (s.poison).hazard = s.hazard := rfl

/-! ### `s.toReset` -/

@[simp] theorem State.toReset_cfg (s : State) : (s.toReset).cfg = s.cfg := rfl
@[simp] theorem State.toReset_status (s : State) : (s.toReset).status = (State.resetOf s.cfg).status := rfl
@[simp] theorem State.toReset_ctrl (s : State) : (s.toReset).ctrl = (State.resetOf s.cfg).ctrl := rfl
@[simp] theorem State.toReset_irq (s : State) : (s.toReset).irq = (State.resetOf s.cfg).irq := rfl
@[simp] theorem State.toReset_errInfo (s : State) : (s.toReset).errInfo = (State.resetOf s.cfg).errInfo := rfl
@[simp] theorem State.toReset_cmd (s : State) : (s.toReset).cmd = (State.resetOf s.cfg).cmd := rfl
@[simp] theorem State.toReset_args (s : State) : (s.toReset).args = (State.resetOf s.cfg).args := rfl
@[simp] theorem State.toReset_res (s : State) : (s.toReset).res = (State.resetOf s.cfg).res := rfl
@[simp] theorem State.toReset_inPtr (s : State) : (s.toReset).inPtr = (State.resetOf s.cfg).inPtr := rfl
@[simp] theorem State.toReset_inEnd (s : State) : (s.toReset).inEnd = (State.resetOf s.cfg).inEnd := rfl
@[simp] theorem State.toReset_outPtr (s : State) : (s.toReset).outPtr = (State.resetOf s.cfg).outPtr := rfl
@[simp] theorem State.toReset_outEnd (s : State) : (s.toReset).outEnd = (State.resetOf s.cfg).outEnd := rfl
@[simp] theorem State.toReset_de (s : State) : (s.toReset).de = (State.resetOf s.cfg).de := rfl
@[simp] theorem State.toReset_dd (s : State) : (s.toReset).dd = (State.resetOf s.cfg).dd := rfl
@[simp] theorem State.toReset_gb (s : State) : (s.toReset).gb = (State.resetOf s.cfg).gb := rfl
@[simp] theorem State.toReset_gw (s : State) : (s.toReset).gw = (State.resetOf s.cfg).gw := rfl
@[simp] theorem State.toReset_pg (s : State) : (s.toReset).pg = (State.resetOf s.cfg).pg := rfl
@[simp] theorem State.toReset_efe (s : State) : (s.toReset).efe = (State.resetOf s.cfg).efe := rfl
@[simp] theorem State.toReset_efd (s : State) : (s.toReset).efd = (State.resetOf s.cfg).efd := rfl
@[simp] theorem State.toReset_mem (s : State) : (s.toReset).mem = s.mem := rfl
@[simp] theorem State.toReset_inputs (s : State) : (s.toReset).inputs = s.inputs := rfl
@[simp] theorem State.toReset_hostData (s : State) : (s.toReset).hostData = s.hostData := rfl
@[simp] theorem State.toReset_fresh (s : State) : (s.toReset).fresh = s.fresh := rfl
@[simp] theorem State.toReset_hazard (s : State) : (s.toReset).hazard = (State.resetOf s.cfg).hazard := rfl

/-! ### `s.havocRanges rs` -/

@[simp] theorem State.havocRanges_cfg (s : State) (rs : List (Nat × Nat)) : (s.havocRanges rs).cfg = s.cfg := by
  induction rs generalizing s with
  | nil => rfl
  | cons r t ih => exact ih _

@[simp] theorem State.havocRanges_status (s : State) (rs : List (Nat × Nat)) : (s.havocRanges rs).status = s.status := by
  induction rs generalizing s with
  | nil => rfl
  | cons r t ih => exact ih _

@[simp] theorem State.havocRanges_ctrl (s : State) (rs : List (Nat × Nat)) : (s.havocRanges rs).ctrl = s.ctrl := by
  induction rs generalizing s with
  | nil => rfl
  | cons r t ih => exact ih _

@[simp] theorem State.havocRanges_irq (s : State) (rs : List (Nat × Nat)) : (s.havocRanges rs).irq = s.irq := by
  induction rs generalizing s with
  | nil => rfl
  | cons r t ih => exact ih _

@[simp] theorem State.havocRanges_errInfo (s : State) (rs : List (Nat × Nat)) : (s.havocRanges rs).errInfo = s.errInfo := by
  induction rs generalizing s with
  | nil => rfl
  | cons r t ih => exact ih _

@[simp] theorem State.havocRanges_cmd (s : State) (rs : List (Nat × Nat)) : (s.havocRanges rs).cmd = s.cmd := by
  induction rs generalizing s with
  | nil => rfl
  | cons r t ih => exact ih _

@[simp] theorem State.havocRanges_args (s : State) (rs : List (Nat × Nat)) : (s.havocRanges rs).args = s.args := by
  induction rs generalizing s with
  | nil => rfl
  | cons r t ih => exact ih _

@[simp] theorem State.havocRanges_res (s : State) (rs : List (Nat × Nat)) : (s.havocRanges rs).res = s.res := by
  induction rs generalizing s with
  | nil => rfl
  | cons r t ih => exact ih _

@[simp] theorem State.havocRanges_inPtr (s : State) (rs : List (Nat × Nat)) : (s.havocRanges rs).inPtr = s.inPtr := by
  induction rs generalizing s with
  | nil => rfl
  | cons r t ih => exact ih _

@[simp] theorem State.havocRanges_inEnd (s : State) (rs : List (Nat × Nat)) : (s.havocRanges rs).inEnd = s.inEnd := by
  induction rs generalizing s with
  | nil => rfl
  | cons r t ih => exact ih _

@[simp] theorem State.havocRanges_outPtr (s : State) (rs : List (Nat × Nat)) : (s.havocRanges rs).outPtr = s.outPtr := by
  induction rs generalizing s with
  | nil => rfl
  | cons r t ih => exact ih _

@[simp] theorem State.havocRanges_outEnd (s : State) (rs : List (Nat × Nat)) : (s.havocRanges rs).outEnd = s.outEnd := by
  induction rs generalizing s with
  | nil => rfl
  | cons r t ih => exact ih _

@[simp] theorem State.havocRanges_de (s : State) (rs : List (Nat × Nat)) : (s.havocRanges rs).de = s.de := by
  induction rs generalizing s with
  | nil => rfl
  | cons r t ih => exact ih _

@[simp] theorem State.havocRanges_dd (s : State) (rs : List (Nat × Nat)) : (s.havocRanges rs).dd = s.dd := by
  induction rs generalizing s with
  | nil => rfl
  | cons r t ih => exact ih _

@[simp] theorem State.havocRanges_gb (s : State) (rs : List (Nat × Nat)) : (s.havocRanges rs).gb = s.gb := by
  induction rs generalizing s with
  | nil => rfl
  | cons r t ih => exact ih _

@[simp] theorem State.havocRanges_gw (s : State) (rs : List (Nat × Nat)) : (s.havocRanges rs).gw = s.gw := by
  induction rs generalizing s with
  | nil => rfl
  | cons r t ih => exact ih _

@[simp] theorem State.havocRanges_pg (s : State) (rs : List (Nat × Nat)) : (s.havocRanges rs).pg = s.pg := by
  induction rs generalizing s with
  | nil => rfl
  | cons r t ih => exact ih _

@[simp] theorem State.havocRanges_efe (s : State) (rs : List (Nat × Nat)) : (s.havocRanges rs).efe = s.efe := by
  induction rs generalizing s with
  | nil => rfl
  | cons r t ih => exact ih _

@[simp] theorem State.havocRanges_efd (s : State) (rs : List (Nat × Nat)) : (s.havocRanges rs).efd = s.efd := by
  induction rs generalizing s with
  | nil => rfl
  | cons r t ih => exact ih _

@[simp] theorem State.havocRanges_inputs (s : State) (rs : List (Nat × Nat)) : (s.havocRanges rs).inputs = s.inputs := by
  induction rs generalizing s with
  | nil => rfl
  | cons r t ih => exact ih _

@[simp] theorem State.havocRanges_hostData (s : State) (rs : List (Nat × Nat)) : (s.havocRanges rs).hostData = s.hostData := by
  induction rs generalizing s with
  | nil => rfl
  | cons r t ih => exact ih _

@[simp] theorem State.havocRanges_hazard (s : State) (rs : List (Nat × Nat)) : (s.havocRanges rs).hazard = s.hazard := by
  induction rs generalizing s with
  | nil => rfl
  | cons r t ih => exact ih _

/-! ### The status and interrupt updates -/

@[simp] theorem statusAccept_busy (t : Status) (c : Word) : (statusAccept t c).busy = true := rfl
@[simp] theorem statusAccept_done (t : Status) (c : Word) : (statusAccept t c).done = false := rfl
@[simp] theorem statusAccept_err (t : Status) (c : Word) : (statusAccept t c).err = false := rfl
@[simp] theorem statusAccept_ovr (t : Status) (c : Word) : (statusAccept t c).ovr = t.ovr := rfl
@[simp] theorem statusAccept_errSticky (t : Status) (c : Word) : (statusAccept t c).errSticky = t.errSticky := rfl
@[simp] theorem statusAccept_errCode (t : Status) (c : Word) : (statusAccept t c).errCode = 0 := rfl
@[simp] theorem statusAccept_lastOpc (t : Status) (c : Word) : (statusAccept t c).lastOpc = c.extractLsb' 0 8 := rfl

@[simp] theorem statusComplete_busy (t : Status) : (statusComplete t).busy = false := rfl
@[simp] theorem statusComplete_done (t : Status) : (statusComplete t).done = true := rfl
@[simp] theorem statusComplete_err (t : Status) : (statusComplete t).err = t.err := rfl
@[simp] theorem statusComplete_ovr (t : Status) : (statusComplete t).ovr = t.ovr := rfl
@[simp] theorem statusComplete_errSticky (t : Status) : (statusComplete t).errSticky = t.errSticky := rfl
@[simp] theorem statusComplete_errCode (t : Status) : (statusComplete t).errCode = t.errCode := rfl
@[simp] theorem statusComplete_lastOpc (t : Status) : (statusComplete t).lastOpc = t.lastOpc := rfl

@[simp] theorem statusCompleteErr_busy (t : Status) (e : ErrCode) : (statusCompleteErr t e).busy = false := rfl
@[simp] theorem statusCompleteErr_done (t : Status) (e : ErrCode) : (statusCompleteErr t e).done = true := rfl
@[simp] theorem statusCompleteErr_err (t : Status) (e : ErrCode) : (statusCompleteErr t e).err = true := rfl
@[simp] theorem statusCompleteErr_ovr (t : Status) (e : ErrCode) : (statusCompleteErr t e).ovr = t.ovr := rfl
@[simp] theorem statusCompleteErr_errSticky (t : Status) (e : ErrCode) : (statusCompleteErr t e).errSticky = true := rfl
@[simp] theorem statusCompleteErr_errCode (t : Status) (e : ErrCode) : (statusCompleteErr t e).errCode = errCodeNumber e := rfl
@[simp] theorem statusCompleteErr_lastOpc (t : Status) (e : ErrCode) : (statusCompleteErr t e).lastOpc = t.lastOpc := rfl

@[simp] theorem statusOverrun_busy (t : Status) : (statusOverrun t).busy = t.busy := rfl
@[simp] theorem statusOverrun_done (t : Status) : (statusOverrun t).done = t.done := rfl
@[simp] theorem statusOverrun_err (t : Status) : (statusOverrun t).err = t.err := rfl
@[simp] theorem statusOverrun_ovr (t : Status) : (statusOverrun t).ovr = true := rfl
@[simp] theorem statusOverrun_errSticky (t : Status) : (statusOverrun t).errSticky = t.errSticky := rfl
@[simp] theorem statusOverrun_errCode (t : Status) : (statusOverrun t).errCode = t.errCode := rfl
@[simp] theorem statusOverrun_lastOpc (t : Status) : (statusOverrun t).lastOpc = t.lastOpc := rfl

@[simp] theorem statusClear_busy (t : Status) (v : Word) : (statusClear t v).busy = t.busy := rfl
@[simp] theorem statusClear_done (t : Status) (v : Word) : (statusClear t v).done = t.done := rfl
@[simp] theorem statusClear_err (t : Status) (v : Word) : (statusClear t v).err = t.err := rfl
@[simp] theorem statusClear_ovr (t : Status) (v : Word) : (statusClear t v).ovr = (t.ovr && !v.getLsbD 3) := rfl
@[simp] theorem statusClear_errSticky (t : Status) (v : Word) : (statusClear t v).errSticky = (t.errSticky && !v.getLsbD 4) := rfl
@[simp] theorem statusClear_errCode (t : Status) (v : Word) : (statusClear t v).errCode = t.errCode := rfl
@[simp] theorem statusClear_lastOpc (t : Status) (v : Word) : (statusClear t v).lastOpc = t.lastOpc := rfl

@[simp] theorem irqComplete_doneIrq (q : IrqStatus) : (irqComplete q).doneIrq = true := rfl
@[simp] theorem irqComplete_errIrq (q : IrqStatus) : (irqComplete q).errIrq = q.errIrq := rfl
@[simp] theorem irqCompleteErr_eq (q : IrqStatus) : irqCompleteErr q = { doneIrq := true, errIrq := true } := rfl

end Sys2Proof.Machine
end

