-- ==== Sys2Proof/Laws/Ops.lean ====
section
/-! SUPPORT. What the shared operations of the commands and of the step can do, each said once: the statements about a
command cite these instead of unfolding the operations. -/

namespace Sys2Proof.Machine

/-! ## Checks -/

@[simp] theorem require_eq_none (p : Prop) [Decidable p] (e : ErrCode) (v : Word) : require p e v = none ↔ p := by
  unfold require
  split <;> simp_all

@[simp] theorem require_eq_some (p : Prop) [Decidable p] (e e' : ErrCode) (v v' : Word) :
    require p e v = some (e', v') ↔ ¬ p ∧ e = e' ∧ v = v' := by
  unfold require
  split <;> simp_all

theorem require_pos {p : Prop} [Decidable p] (h : p) (e : ErrCode) (v : Word) : require p e v = none := by simp [h]

theorem require_neg {p : Prop} [Decidable p] (h : ¬ p) (e : ErrCode) (v : Word) : require p e v = some (e, v) := by
  simp [h]

/-! ## Completion -/

/-- A command whose checks find nothing completes with its effect. -/
theorem conclude_none (s : State) (f : Unit → State) : s.conclude none f = .next (f ()).complete := rfl

/-- A command whose checks find an error completes with it and with nothing else. -/
theorem conclude_some (s : State) (e : Err) (f : Unit → State) :
    s.conclude (some e) f = .next (s.completeErr e.1 e.2) := rfl

/-- Everything a command with all its checks in front can do. -/
theorem conclude_cases (s t : State) (c : Check) (f : Unit → State) (h : s.conclude c f = .next t) :
    (c = none ∧ t = (f ()).complete) ∨ ∃ e, c = some e ∧ t = s.completeErr e.1 e.2 := by
  cases c with
  | none => exact .inl ⟨rfl, by simpa [State.conclude] using h.symm⟩
  | some e => exact .inr ⟨e, rfl, by simpa [State.conclude] using h.symm⟩

/-- Everything a command that reads the input stream can do. -/
theorem concludeStream_cases (s t : State) (c : Check) (f : Unit → Except Err State)
    (h : s.concludeStream c f = .next t) :
    (∃ e, c = some e ∧ t = s.completeErr e.1 e.2) ∨
    (c = none ∧ ∃ e, f () = .error e ∧ t = s.poison.completeErr e.1 e.2) ∨
    (c = none ∧ ∃ u, f () = .ok u ∧ t = u.complete) := by
  cases c with
  | some e => exact .inl ⟨e, rfl, by simpa [State.concludeStream] using h.symm⟩
  | none =>
    cases hf : f () with
    | error e => exact .inr (.inl ⟨rfl, e, rfl, by simpa [State.concludeStream, hf] using h.symm⟩)
    | ok u => exact .inr (.inr ⟨rfl, u, rfl, by simpa [State.concludeStream, hf] using h.symm⟩)

theorem conclude_next (s : State) (c : Check) (f : Unit → State) : ∃ t, s.conclude c f = .next t := by
  cases c <;> exact ⟨_, rfl⟩

theorem concludeStream_next (s : State) (c : Check) (f : Unit → Except Err State) :
    ∃ t, s.concludeStream c f = .next t := by
  cases c with
  | some e => exact ⟨_, rfl⟩
  | none =>
    cases hf : f () with
    | error e => exact ⟨s.poison.completeErr e.1 e.2, by simp [State.concludeStream, hf]⟩
    | ok u => exact ⟨u.complete, by simp [State.concludeStream, hf]⟩

/-! ## Hazards -/

/-- Without a hazard nothing is left to settle (70_reset R590). -/
theorem settleHazards_none (s : State) (h : s.hazard = {}) : s.settleHazards = s := by
  unfold State.settleHazards
  rw [h]
  cases s
  simp_all

/-- What free ranges leave alone. -/
theorem sameOutside_havocRanges (s : State) (rs : List (Nat × Nat)) :
    sameOutsideRanges s.mem (s.havocRanges rs).mem rs := by
  induction rs generalizing s with
  | nil => intro x _; rfl
  | cons r t ih =>
    intro x hx
    rw [State.havocRanges, ih _ x fun q hq => hx q (by simp [hq])]
    exact sameOutside_havocBytes s.mem s.fresh r.1 r.2 x (hx r (by simp))

theorem havocRanges_below (s : State) (rs : List (Nat × Nat)) (hr : rangesInside s.cfg rs)
    (h : ∀ c ∈ s.mem, c.1 < s.cfg.memBytes) : ∀ c ∈ (s.havocRanges rs).mem, c.1 < s.cfg.memBytes := by
  induction rs generalizing s with
  | nil => exact h
  | cons r t ih =>
    exact ih (s.havoc r.1 r.2) (fun q hq => hr q (by simp [hq])) (havocBytes_below _ _ _ _ _ (hr r (by simp)) h)

/-! ## The step -/

theorem mapNext_next (f : State → State) (t : State) : mapNext f (.next t) = .next (f t) := rfl

/-- Everything a step can be: the engine's turn, an access of the host, both, or a reset (10_state R30, 60_exceptions
R546). -/
theorem step_cases (s : State) :
    (∃ rest, (s.inputs = .engine :: rest ∨ (s.inputs = [] ∧ rest = [])) ∧
      step s = engineTurn { s with inputs := rest }) ∨
    (∃ a rest, s.inputs = .host a :: rest ∧ step s = hostStep a { s with inputs := rest }) ∨
    (∃ a rest, s.inputs = .hostAndEngine a :: rest ∧ step s = hostAndEngineStep a { s with inputs := rest }) ∨
    (∃ rest, s.inputs = .hardReset :: rest ∧ step s = .next ({ s with inputs := rest }).doReset) := by
  unfold step stepInputs
  cases h : s.inputs with
  | nil =>
    refine .inl ⟨[], .inr ⟨rfl, rfl⟩, ?_⟩
    cases s
    simp_all
  | cons x t =>
    cases x with
    | engine => exact .inl ⟨t, .inl rfl, rfl⟩
    | host a => exact .inr (.inl ⟨a, t, rfl, rfl⟩)
    | hostAndEngine a => exact .inr (.inr (.inl ⟨a, t, rfl, rfl⟩))
    | hardReset => exact .inr (.inr (.inr ⟨t, rfl, rfl⟩))

/-- Everything an access of the host in the step of a completion can do (60_exceptions R546). -/
theorem hostAndEngineStep_cases (a : HostAccess) (s t : State) (h : hostAndEngineStep a s = .next t) :
    (s.status.busy = false ∧ hostStep a s = .next t) ∨
    (s.status.busy = true ∧ ∃ u, hostStep a s = .next u ∧ engineTurn u = .next t) := by
  unfold hostAndEngineStep at h
  cases hb : s.status.busy with
  | false => exact .inl ⟨rfl, by simpa [hb] using h⟩
  | true =>
    cases hu : hostStep a s with
    | next u => exact .inr ⟨rfl, u, rfl, by simpa [hb, hu] using h⟩
    | fault r => simp [hb, hu] at h
    | refused r => simp [hb, hu] at h

/-- When the decoder finds a sequence (46 R436, 47 R474). -/
theorem efdSequence_eq_some (s : State) (xs : List Nat) :
    efdSequence s = some xs ↔ efdUnfinished s = false ∧ efSequence s.mem (efdLayout s.efd) = some xs := by
  unfold efdSequence
  cases efdUnfinished s <;> simp

/-- Everything a turn of the engine can do. -/
theorem engineTurn_cases (s : State) :
    (s.status.busy = false ∧ engineTurn s = .next s) ∨
    (s.status.busy = true ∧ ∃ i, decode s.cmd = .ok i ∧ engineTurn s = mapNext State.settleHazards (exec i s)) ∨
    (s.status.busy = true ∧ ∃ e, decode s.cmd = .error e ∧ engineTurn s = .next (illegalCommand s).settleHazards) := by
  unfold engineTurn
  cases hb : s.status.busy with
  | false => exact .inl ⟨rfl, rfl⟩
  | true =>
    cases hd : decode s.cmd with
    | ok i => exact .inr (.inl ⟨rfl, i, rfl, by simp [runCommand, hd]⟩)
    | error e => exact .inr (.inr ⟨rfl, e, rfl, by simp [runCommand, hd]⟩)

/-- The offset of an access to the window is the offset it names (10_state R32). -/
theorem windowOffset_add (p : Params) (off : Nat) (h : off < 4096) : windowOffset p (p.regBase + u64 off) = off := by
  unfold windowOffset
  rw [BitVec.add_comm, BitVec.add_sub_cancel]
  simp only [BitVec.toNat_ofNat]
  omega

end Sys2Proof.Machine
end

