-- ==== Sys2Proof/Laws/PerInstr.lean ====
section
/-! SUPPORT. Statements made of every command by its syntax, one lemma per constructor: the command's word carries the
opcode of its row, its width field is the command's width, and nothing stands above the low 16 bits (30_encoding R140,
R144). -/

namespace Sys2Proof.Laws

/-- The opcode of a command's row (R144). -/
def opcodeOf : Instr → Nat
  | .nop => 0x00
  | .fsSelect _ => 0x01
  | .bpGeom _ _ => 0x02
  | .unitReset => 0x03
  | .bpDecLL _ _ => 0x10
  | .bpDecBL _ _ => 0x11
  | .bpEncLL _ _ => 0x12
  | .bpEncLB _ _ => 0x13
  | .deInit => 0x20
  | .deInitMono => 0x21
  | .deAdd => 0x22
  | .deFinish => 0x23
  | .ddInit => 0x28
  | .ddInitMono => 0x29
  | .ddNext => 0x2A
  | .ddSkip => 0x2B
  | .gbInit => 0x30
  | .gbInitMono => 0x31
  | .gbAdd => 0x32
  | .gbGet => 0x33
  | .gbIterReset => 0x34
  | .gbIterNext => 0x35
  | .gwInit _ => 0x40
  | .gwGet => 0x41
  | .gwSet => 0x42
  | .gwResize => 0x43
  | .pgInit _ => 0x48
  | .pgGet => 0x49
  | .pgSet => 0x4A
  | .pgResize => 0x4B
  | .pgGrow => 0x4C
  | .pgPageBpv => 0x4D
  | .efeInit => 0x50
  | .efeEncode => 0x51
  | .efeFinish => 0x52
  | .efdInit => 0x58
  | .efdNext => 0x59
  | .efdAdvance => 0x5A
  | .efdPrev => 0x5B
  | .efdBack => 0x5C
  | .efdToBefore => 0x5D
  | .efdToAfter => 0x5E
  | .efdCurrent => 0x5F

/-- The width a command carries; 0 where it carries none (R141). -/
def widthOf : Instr → Nat
  | .nop => 0
  | .fsSelect bpv => bpv
  | .bpGeom bpv _ => bpv
  | .unitReset => 0
  | .bpDecLL bpv _ => bpv
  | .bpDecBL bpv _ => bpv
  | .bpEncLL bpv _ => bpv
  | .bpEncLB bpv _ => bpv
  | .deInit => 0
  | .deInitMono => 0
  | .deAdd => 0
  | .deFinish => 0
  | .ddInit => 0
  | .ddInitMono => 0
  | .ddNext => 0
  | .ddSkip => 0
  | .gbInit => 0
  | .gbInitMono => 0
  | .gbAdd => 0
  | .gbGet => 0
  | .gbIterReset => 0
  | .gbIterNext => 0
  | .gwInit bpv => bpv
  | .gwGet => 0
  | .gwSet => 0
  | .gwResize => 0
  | .pgInit bpv => bpv
  | .pgGet => 0
  | .pgSet => 0
  | .pgResize => 0
  | .pgGrow => 0
  | .pgPageBpv => 0
  | .efeInit => 0
  | .efeEncode => 0
  | .efeFinish => 0
  | .efdInit => 0
  | .efdNext => 0
  | .efdAdvance => 0
  | .efdPrev => 0
  | .efdBack => 0
  | .efdToBefore => 0
  | .efdToAfter => 0
  | .efdCurrent => 0

/-- The fields of the word of a command that has one (R140). -/
def EncodedFields.Statement (i : Instr) : Prop :=
  WellFormed i → opcField (encode i) = opcodeOf i ∧ bpvField (encode i) = widthOf i ∧ reservedField (encode i) = 0

/-- The fields of a word built from fields in range (R140). -/
theorem encodeCmd_fields (opc bpv fmt : Nat) (ho : opc < 256) (hb : bpv < 128) (hf : fmt < 2) :
    opcField (encodeCmd opc bpv fmt) = opc ∧ bpvField (encodeCmd opc bpv fmt) = bpv ∧
      fmtField (encodeCmd opc bpv fmt) = fmt ∧ reservedField (encodeCmd opc bpv fmt) = 0 := by
  simp only [opcField, bpvField, fmtField, reservedField, encodeCmd, BitVec.toNat_ofNat]
  omega

theorem formatId_lt (f : Format) : formatId f < 2 := by cases f <;> decide

theorem EncodedFields.nop : EncodedFields.Statement .nop := fun _ =>
  have h := encodeCmd_fields 0x00 0 0 (by decide) (by decide) (by decide)
  ⟨h.1, h.2.1, h.2.2.2⟩

theorem EncodedFields.fsSelect (bpv : Nat) : EncodedFields.Statement (.fsSelect bpv) := fun hw =>
  have h := encodeCmd_fields 0x01 bpv 0 (by decide) (of_decide_eq_true hw) (by decide)
  ⟨h.1, h.2.1, h.2.2.2⟩

theorem EncodedFields.bpGeom (bpv : Nat) (fmt : Format) : EncodedFields.Statement (.bpGeom bpv fmt) := fun hw =>
  have h := encodeCmd_fields 0x02 bpv (formatId fmt) (by decide) (of_decide_eq_true hw) (formatId_lt fmt)
  ⟨h.1, h.2.1, h.2.2.2⟩

theorem EncodedFields.unitReset : EncodedFields.Statement .unitReset := fun _ =>
  have h := encodeCmd_fields 0x03 0 0 (by decide) (by decide) (by decide)
  ⟨h.1, h.2.1, h.2.2.2⟩

theorem EncodedFields.bpDecLL (bpv : Nat) (fmt : Format) : EncodedFields.Statement (.bpDecLL bpv fmt) := fun hw =>
  have h := encodeCmd_fields 0x10 bpv (formatId fmt) (by decide) (of_decide_eq_true hw) (formatId_lt fmt)
  ⟨h.1, h.2.1, h.2.2.2⟩

theorem EncodedFields.bpDecBL (bpv : Nat) (fmt : Format) : EncodedFields.Statement (.bpDecBL bpv fmt) := fun hw =>
  have h := encodeCmd_fields 0x11 bpv (formatId fmt) (by decide) (of_decide_eq_true hw) (formatId_lt fmt)
  ⟨h.1, h.2.1, h.2.2.2⟩

theorem EncodedFields.bpEncLL (bpv : Nat) (fmt : Format) : EncodedFields.Statement (.bpEncLL bpv fmt) := fun hw =>
  have h := encodeCmd_fields 0x12 bpv (formatId fmt) (by decide) (of_decide_eq_true hw) (formatId_lt fmt)
  ⟨h.1, h.2.1, h.2.2.2⟩

theorem EncodedFields.bpEncLB (bpv : Nat) (fmt : Format) : EncodedFields.Statement (.bpEncLB bpv fmt) := fun hw =>
  have h := encodeCmd_fields 0x13 bpv (formatId fmt) (by decide) (of_decide_eq_true hw) (formatId_lt fmt)
  ⟨h.1, h.2.1, h.2.2.2⟩

theorem EncodedFields.deInit : EncodedFields.Statement .deInit := fun _ =>
  have h := encodeCmd_fields 0x20 0 0 (by decide) (by decide) (by decide)
  ⟨h.1, h.2.1, h.2.2.2⟩

theorem EncodedFields.deInitMono : EncodedFields.Statement .deInitMono := fun _ =>
  have h := encodeCmd_fields 0x21 0 0 (by decide) (by decide) (by decide)
  ⟨h.1, h.2.1, h.2.2.2⟩

theorem EncodedFields.deAdd : EncodedFields.Statement .deAdd := fun _ =>
  have h := encodeCmd_fields 0x22 0 0 (by decide) (by decide) (by decide)
  ⟨h.1, h.2.1, h.2.2.2⟩

theorem EncodedFields.deFinish : EncodedFields.Statement .deFinish := fun _ =>
  have h := encodeCmd_fields 0x23 0 0 (by decide) (by decide) (by decide)
  ⟨h.1, h.2.1, h.2.2.2⟩

theorem EncodedFields.ddInit : EncodedFields.Statement .ddInit := fun _ =>
  have h := encodeCmd_fields 0x28 0 0 (by decide) (by decide) (by decide)
  ⟨h.1, h.2.1, h.2.2.2⟩

theorem EncodedFields.ddInitMono : EncodedFields.Statement .ddInitMono := fun _ =>
  have h := encodeCmd_fields 0x29 0 0 (by decide) (by decide) (by decide)
  ⟨h.1, h.2.1, h.2.2.2⟩

theorem EncodedFields.ddNext : EncodedFields.Statement .ddNext := fun _ =>
  have h := encodeCmd_fields 0x2A 0 0 (by decide) (by decide) (by decide)
  ⟨h.1, h.2.1, h.2.2.2⟩

theorem EncodedFields.ddSkip : EncodedFields.Statement .ddSkip := fun _ =>
  have h := encodeCmd_fields 0x2B 0 0 (by decide) (by decide) (by decide)
  ⟨h.1, h.2.1, h.2.2.2⟩

theorem EncodedFields.gbInit : EncodedFields.Statement .gbInit := fun _ =>
  have h := encodeCmd_fields 0x30 0 0 (by decide) (by decide) (by decide)
  ⟨h.1, h.2.1, h.2.2.2⟩

theorem EncodedFields.gbInitMono : EncodedFields.Statement .gbInitMono := fun _ =>
  have h := encodeCmd_fields 0x31 0 0 (by decide) (by decide) (by decide)
  ⟨h.1, h.2.1, h.2.2.2⟩

theorem EncodedFields.gbAdd : EncodedFields.Statement .gbAdd := fun _ =>
  have h := encodeCmd_fields 0x32 0 0 (by decide) (by decide) (by decide)
  ⟨h.1, h.2.1, h.2.2.2⟩

theorem EncodedFields.gbGet : EncodedFields.Statement .gbGet := fun _ =>
  have h := encodeCmd_fields 0x33 0 0 (by decide) (by decide) (by decide)
  ⟨h.1, h.2.1, h.2.2.2⟩

theorem EncodedFields.gbIterReset : EncodedFields.Statement .gbIterReset := fun _ =>
  have h := encodeCmd_fields 0x34 0 0 (by decide) (by decide) (by decide)
  ⟨h.1, h.2.1, h.2.2.2⟩

theorem EncodedFields.gbIterNext : EncodedFields.Statement .gbIterNext := fun _ =>
  have h := encodeCmd_fields 0x35 0 0 (by decide) (by decide) (by decide)
  ⟨h.1, h.2.1, h.2.2.2⟩

theorem EncodedFields.gwInit (bpv : Nat) : EncodedFields.Statement (.gwInit bpv) := fun hw =>
  have h := encodeCmd_fields 0x40 bpv 0 (by decide) (of_decide_eq_true hw) (by decide)
  ⟨h.1, h.2.1, h.2.2.2⟩

theorem EncodedFields.gwGet : EncodedFields.Statement .gwGet := fun _ =>
  have h := encodeCmd_fields 0x41 0 0 (by decide) (by decide) (by decide)
  ⟨h.1, h.2.1, h.2.2.2⟩

theorem EncodedFields.gwSet : EncodedFields.Statement .gwSet := fun _ =>
  have h := encodeCmd_fields 0x42 0 0 (by decide) (by decide) (by decide)
  ⟨h.1, h.2.1, h.2.2.2⟩

theorem EncodedFields.gwResize : EncodedFields.Statement .gwResize := fun _ =>
  have h := encodeCmd_fields 0x43 0 0 (by decide) (by decide) (by decide)
  ⟨h.1, h.2.1, h.2.2.2⟩

theorem EncodedFields.pgInit (bpv : Nat) : EncodedFields.Statement (.pgInit bpv) := fun hw =>
  have h := encodeCmd_fields 0x48 bpv 0 (by decide) (of_decide_eq_true hw) (by decide)
  ⟨h.1, h.2.1, h.2.2.2⟩

theorem EncodedFields.pgGet : EncodedFields.Statement .pgGet := fun _ =>
  have h := encodeCmd_fields 0x49 0 0 (by decide) (by decide) (by decide)
  ⟨h.1, h.2.1, h.2.2.2⟩

theorem EncodedFields.pgSet : EncodedFields.Statement .pgSet := fun _ =>
  have h := encodeCmd_fields 0x4A 0 0 (by decide) (by decide) (by decide)
  ⟨h.1, h.2.1, h.2.2.2⟩

theorem EncodedFields.pgResize : EncodedFields.Statement .pgResize := fun _ =>
  have h := encodeCmd_fields 0x4B 0 0 (by decide) (by decide) (by decide)
  ⟨h.1, h.2.1, h.2.2.2⟩

theorem EncodedFields.pgGrow : EncodedFields.Statement .pgGrow := fun _ =>
  have h := encodeCmd_fields 0x4C 0 0 (by decide) (by decide) (by decide)
  ⟨h.1, h.2.1, h.2.2.2⟩

theorem EncodedFields.pgPageBpv : EncodedFields.Statement .pgPageBpv := fun _ =>
  have h := encodeCmd_fields 0x4D 0 0 (by decide) (by decide) (by decide)
  ⟨h.1, h.2.1, h.2.2.2⟩

theorem EncodedFields.efeInit : EncodedFields.Statement .efeInit := fun _ =>
  have h := encodeCmd_fields 0x50 0 0 (by decide) (by decide) (by decide)
  ⟨h.1, h.2.1, h.2.2.2⟩

theorem EncodedFields.efeEncode : EncodedFields.Statement .efeEncode := fun _ =>
  have h := encodeCmd_fields 0x51 0 0 (by decide) (by decide) (by decide)
  ⟨h.1, h.2.1, h.2.2.2⟩

theorem EncodedFields.efeFinish : EncodedFields.Statement .efeFinish := fun _ =>
  have h := encodeCmd_fields 0x52 0 0 (by decide) (by decide) (by decide)
  ⟨h.1, h.2.1, h.2.2.2⟩

theorem EncodedFields.efdInit : EncodedFields.Statement .efdInit := fun _ =>
  have h := encodeCmd_fields 0x58 0 0 (by decide) (by decide) (by decide)
  ⟨h.1, h.2.1, h.2.2.2⟩

theorem EncodedFields.efdNext : EncodedFields.Statement .efdNext := fun _ =>
  have h := encodeCmd_fields 0x59 0 0 (by decide) (by decide) (by decide)
  ⟨h.1, h.2.1, h.2.2.2⟩

theorem EncodedFields.efdAdvance : EncodedFields.Statement .efdAdvance := fun _ =>
  have h := encodeCmd_fields 0x5A 0 0 (by decide) (by decide) (by decide)
  ⟨h.1, h.2.1, h.2.2.2⟩

theorem EncodedFields.efdPrev : EncodedFields.Statement .efdPrev := fun _ =>
  have h := encodeCmd_fields 0x5B 0 0 (by decide) (by decide) (by decide)
  ⟨h.1, h.2.1, h.2.2.2⟩

theorem EncodedFields.efdBack : EncodedFields.Statement .efdBack := fun _ =>
  have h := encodeCmd_fields 0x5C 0 0 (by decide) (by decide) (by decide)
  ⟨h.1, h.2.1, h.2.2.2⟩

theorem EncodedFields.efdToBefore : EncodedFields.Statement .efdToBefore := fun _ =>
  have h := encodeCmd_fields 0x5D 0 0 (by decide) (by decide) (by decide)
  ⟨h.1, h.2.1, h.2.2.2⟩

theorem EncodedFields.efdToAfter : EncodedFields.Statement .efdToAfter := fun _ =>
  have h := encodeCmd_fields 0x5E 0 0 (by decide) (by decide) (by decide)
  ⟨h.1, h.2.1, h.2.2.2⟩

theorem EncodedFields.efdCurrent : EncodedFields.Statement .efdCurrent := fun _ =>
  have h := encodeCmd_fields 0x5F 0 0 (by decide) (by decide) (by decide)
  ⟨h.1, h.2.1, h.2.2.2⟩

end Sys2Proof.Laws
end

