-- ==== Sys2Proof/Tests/Slice0.lean ====
section
/-! SUPPORT. The model's own tests: the refusal of ill-formed commands, the decoding of words written out from
spec/30_encoding.md R140 and R144, one step of each command on the values of the examples in the spec's rules and in
spec/95_test_vectors.md, and, for every statement with hypotheses, a concrete state that meets them. -/

namespace Sys2Proof.Tests

open Sys2Proof Sys2Proof.Machine

/-! ## Helpers -/

/-- A small device for the tests. -/
def tpar : Params :=
  { memBytes := 4096, regBase := 0x80000000, max24 := 715827882, max48 := 715827882, gbMaxBlocks := 2, gbStoreWords := 64,
    gwStoreWords := 4, pgMaxPages := 4, pgStoreWords := 12, efMaxValues := 16 }

/-- The test device after reset. -/
def ts : State := State.resetOf tpar

/-- The test device with operands. -/
def ta (a0 a1 a2 a3 a4 a5 : Word) : State := { ts with args := { a0, a1, a2, a3, a4, a5 } }

/-- The next state, if there is one. -/
def nextOf : Host.Outcome State Fault Refusal → Option State
  | .next t => some t
  | _ => none

/-- The error code and ERRINFO a command completes with. -/
def errOf (o : Host.Outcome State Fault Refusal) : Option (Nat × Word) :=
  (nextOf o).map (fun t => (t.status.errCode.toNat, t.errInfo))

/-- The error code, RES0 and RES1 a command leaves. -/
def resOf (o : Host.Outcome State Fault Refusal) : Option (Nat × Word × Word) :=
  (nextOf o).map (fun t => (t.status.errCode.toNat, t.res.r0, t.res.r1))

/-- A state whose next input is a store to the window. -/
def tStore (s : State) (off : Nat) (v : Word) : State :=
  { s with inputs := [.host (.regStore 8 (s.cfg.regBase + u64 off) v)] }

/-- A state whose next input is a load from the window. -/
def tLoad (s : State) (off : Nat) : State := { s with inputs := [.host (.regLoad 8 (s.cfg.regBase + u64 off))] }

/-- A state in which a command runs. -/
def tBusy (c : Word) : State := ts.accept c

/-! ## WellFormed refuses what no word can carry (R140, R141) -/

theorem test_illFormed_fsSelect : ¬ WellFormed (.fsSelect 128) := by decide
theorem test_illFormed_bpGeom : ¬ WellFormed (.bpGeom 128 .packed) := by decide
theorem test_illFormed_bpDec : ¬ WellFormed (.bpDecLL 200 .packed) ∧ ¬ WellFormed (.bpDecBL 128 .singleBlock) := by decide
theorem test_illFormed_bpEnc : ¬ WellFormed (.bpEncLL 128 .packed) ∧ ¬ WellFormed (.bpEncLB 1000 .singleBlock) := by decide
theorem test_illFormed_arrays : ¬ WellFormed (.gwInit 128) ∧ ¬ WellFormed (.pgInit 128) := by decide
theorem test_wellFormed_boundary : WellFormed (.bpGeom 127 .singleBlock) ∧ WellFormed (.fsSelect 0) := by decide

/-! ## Decoding: words written out from R140 (OPC + BPV * 2^8 + FMT * 2^15) and the rows of R144 -/

theorem test_decode_system : decode 0x0000 = .ok .nop ∧ decode 0x0003 = .ok .unitReset := by decide
theorem test_decode_fs : decode 0x1401 = .ok (.fsSelect 20) ∧ decode 0x7F01 = .ok (.fsSelect 127) := by decide
theorem test_decode_bp : decode 0x0D02 = .ok (.bpGeom 13 .packed) ∧ decode 0x8302 = .ok (.bpGeom 3 .singleBlock) ∧
    decode 0x0D10 = .ok (.bpDecLL 13 .packed) ∧ decode 0x9511 = .ok (.bpDecBL 21 .singleBlock) ∧
    decode 0x0312 = .ok (.bpEncLL 3 .packed) ∧ decode 0xA013 = .ok (.bpEncLB 32 .singleBlock) := by decide
theorem test_decode_de : decode 0x20 = .ok .deInit ∧ decode 0x21 = .ok .deInitMono ∧ decode 0x22 = .ok .deAdd ∧
    decode 0x23 = .ok .deFinish := by decide
theorem test_decode_dd : decode 0x28 = .ok .ddInit ∧ decode 0x29 = .ok .ddInitMono ∧ decode 0x2A = .ok .ddNext ∧
    decode 0x2B = .ok .ddSkip := by decide
theorem test_decode_gb : decode 0x30 = .ok .gbInit ∧ decode 0x31 = .ok .gbInitMono ∧ decode 0x32 = .ok .gbAdd ∧
    decode 0x33 = .ok .gbGet ∧ decode 0x34 = .ok .gbIterReset ∧ decode 0x35 = .ok .gbIterNext := by decide
theorem test_decode_gw : decode 0x0240 = .ok (.gwInit 2) ∧ decode 0x41 = .ok .gwGet ∧ decode 0x42 = .ok .gwSet ∧
    decode 0x43 = .ok .gwResize := by decide
theorem test_decode_pg : decode 0x0148 = .ok (.pgInit 1) ∧ decode 0x49 = .ok .pgGet ∧ decode 0x4A = .ok .pgSet ∧
    decode 0x4B = .ok .pgResize ∧ decode 0x4C = .ok .pgGrow ∧ decode 0x4D = .ok .pgPageBpv := by decide
theorem test_decode_efe : decode 0x50 = .ok .efeInit ∧ decode 0x51 = .ok .efeEncode ∧ decode 0x52 = .ok .efeFinish := by
  decide
theorem test_decode_efd : decode 0x58 = .ok .efdInit ∧ decode 0x59 = .ok .efdNext ∧ decode 0x5A = .ok .efdAdvance ∧
    decode 0x5B = .ok .efdPrev ∧ decode 0x5C = .ok .efdBack ∧ decode 0x5D = .ok .efdToBefore ∧
    decode 0x5E = .ok .efdToAfter ∧ decode 0x5F = .ok .efdCurrent := by decide
theorem test_decode_illegal : decode 0x04 = .error .unassignedOpcode ∧ decode 0xFF = .error .unassignedOpcode ∧
    decode 0x10000 = .error .reservedBits ∧ decode 0x0122 = .error .bpvNotZero ∧ decode 0x8001 = .error .fmtNotZero ∧
    decode 0x8022 = .error .fmtNotZero := by decide

/-! ## The system commands and the selector (48 R510, R511; 41 R241) -/

/-- R510's example: STATUS reads 2 after a NOP. -/
theorem test_nop : (nextOf (exec .nop (tBusy 0))).map (fun t => statusWord t.status) = some 2 := by decide

/-- R511: mask bit 0 resets the delta encoder; bit 7 is no unit. -/
theorem test_unitReset : (nextOf (exec .unitReset { ta 1 0 0 0 0 0 with de := deInitContext true 64 })).map State.de =
      some {} ∧ errOf (exec .unitReset (ta 0x80 0 0 0 0 0)) = some (6, 0x80) := by decide

/-- R241's example: width 20, 1000 values, ratio 0.25. -/
theorem test_fsSelect : (nextOf (exec (.fsSelect 20) (ta 1000 16384 0 0 0 0))).map State.res =
    some { r0 := 0, r1 := 24, r2 := 25 } := by decide

/-! ## The bit packer (40) -/

/-- R201's example: width 13. -/
theorem test_bpGeom : (nextOf (exec (.bpGeom 13 .packed) ts)).map State.res =
    some { r0 := 13, r1 := 64, r2 := 13, r3 := 8 } := by decide

/-- R206's example: values 1, 0, 1, 1, 0, 0, 0, 1 at width 1 are the byte 0xB1. -/
theorem test_bpEncLB : (nextOf (exec (.bpEncLB 1 .packed)
      { ta 0 0 256 0 1 0 with mem := [(7, 1), (23, 1), (31, 1), (63, 1)] })).map
        (fun t => readByte t.mem 256) = some 0xB1 := by decide

/-- R204's example: width 13, source bytes D5 E0 00 7F FE: the values 0x1ABC, 1, 0x1FFF. -/
theorem test_bpDecBL : (nextOf (exec (.bpDecBL 13 .packed)
      { ta 0 1 256 0 1 0 with mem := [(1, 0xD5), (2, 0xE0), (4, 0x7F), (5, 0xFE)] })).map
        (fun t => readWords t.mem 256 4) = some [0x1ABC, 1, 0x1FFF, 0] := by decide

/-- R203, R155: width 64 copies. -/
theorem test_bpDecLL : (nextOf (exec (.bpDecLL 64 .packed)
      { ta 0 1 256 1 1 0 with mem := [(8, 0x80), (15, 7)] })).map
        (fun t => readWord t.mem 264) = some 0x8000000000000007 := by decide

/-- R205, R153: two values of width 32 in one word, the first in the low half. -/
theorem test_bpEncLL : (nextOf (exec (.bpEncLL 32 .singleBlock)
      { ta 0 0 256 0 1 0 with mem := [(3, 9), (7, 5), (15, 6)] })).map
        (fun t => readWord t.mem 256) = some 0x0000000600000005 := by decide

/-- R104: a misaligned source. -/
theorem test_bp_alignment : errOf (exec (.bpDecLL 1 .packed) (ta 4 0 256 0 1 0)) = some (8, 4) := by decide

/-! ## The delta codec (42, 43) -/

/-- R264's and R265's examples, and R261. -/
theorem test_deInit : (nextOf (exec .deInit (ta 64 0 0 0 0 0))).map (fun t => regValue t .deStateR) = some 1 ∧
    (nextOf (exec .deInitMono (ta 64 0 0 0 0 0))).map (fun t => regValue t .deStateR) = some 0x101 ∧
    errOf (exec .deInit (ta 100 0 0 0 0 0)) = some (6, 100) := by decide

/-- A writer with 63 values 5 buffered, the output stream at [16, 64). -/
def tWriter : State :=
  { ta 5 0 0 0 0 0 with
    de := { state := .buffering, mono := false, blockSize := 64, pending := 63, ord := 63, buf := List.replicate 64 5 }
    outPtr := 16, outEnd := 64 }

set_option maxRecDepth 20000 in
/-- R266's example: the 64th value 5 writes the bytes 0x00 0x0A; RES0 is 64. -/
theorem test_deAdd : (nextOf (exec .deAdd tWriter)).map
      (fun t => (readByte t.mem 16, readByte t.mem 17, t.outPtr, t.res.r0, t.de.state)) =
    some (0x00, 0x0A, 18, 64, .idle) := by decide

set_option maxRecDepth 20000 in
/-- R262: no room for the block of 2 bytes. -/
theorem test_deAdd_overflow : errOf (exec .deAdd { tWriter with outEnd := 17 }) = some (13, 2) := by decide

set_option maxRecDepth 20000 in
/-- R267: the partial block of 63 values is written. -/
theorem test_deFinish : (nextOf (exec .deFinish tWriter)).map
      (fun t => (readByte t.mem 17, t.outPtr, t.res.r0, t.de.state)) = some (0x0A, 18, 63, .finished) := by decide

/-- 95_test_vectors T-DEM-2 and T-DEM-5. -/
theorem test_encodeMono : encodeMono [100, 111, 119, 130] = [0x04, 0xC8, 0x01, 0x41, 0x20, 0x00, 0x00, 0x24] ∧
    encodeMono [0, 3, 5, 9, 12] = [0x03, 0x40, 0x40, 0x00, 0x00, 0x20] := by decide

/-- 95_test_vectors: R(0.5), R(1.5), R(2.5), R(-0.5), R(-1.5), and R176's NaN and infinity. -/
theorem test_f32Round : [0x3F000000, 0x3FC00000, 0x40200000, 0xBF000000, 0xBFC00000, 0x7FC00000, 0x7F800000].map f32Round =
    [0, 2, 2, 0, 0xFFFFFFFFFFFFFFFE, 0, 0] := by decide

/-- R306's example stream 0x07 0x0A 0x60: a reader of 4 values at IN_PTR 16. -/
def tReader : State :=
  { ts with dd := ddInitContext false 64 4, inPtr := 16, inEnd := 19, mem := [(16, 0x07), (17, 0x0A), (18, 0x60)] }

/-- R304's and R305's examples. -/
theorem test_ddInit : (nextOf (exec .ddInit (ta 64 70 0 0 0 0))).map (fun t => (regValue t .ddStateR, t.dd.off)) =
      some (1, 64) ∧
    (nextOf (exec .ddInitMono (ta 64 4 0 0 0 0))).map (fun t => regValue t .ddStateR) = some 0x101 := by decide

/-- R306's example: the first value is 0 and IN_PTR moves by 3. -/
theorem test_ddNext : (nextOf (exec .ddNext tReader)).map (fun t => (t.res.r0, t.res.r1, t.inPtr, t.dd.off)) =
    some (0, 1, 19, 1) := by decide

/-- R307: a skip of 3 decodes the block; the next value is 3. -/
theorem test_ddSkip : (nextOf (exec .ddSkip { tReader with args := { a0 := 3 } })).map
      (fun t => (t.res.r1, t.inPtr, t.dd.buf.getD 3 0)) = some (3, 19, 3) := by decide

/-- R301: an empty stream poisons the decoder. -/
theorem test_ddNext_fatal : (nextOf (exec .ddNext { tReader with inEnd := 16 })).map
      (fun t => (t.status.errCode.toNat, t.errInfo, t.dd.state)) = some (3, 16, .poisoned) := by decide

/-! ## The growable append buffer (44) -/

/-- R344's and R345's examples. -/
theorem test_gbInit : (nextOf (exec .gbInit (ta 1024 0 0 0 0 0))).map (fun t => (regValue t .gbStateR, t.gb.pageSize)) =
      some (1, 1024) ∧
    (nextOf (exec .gbInitMono (ta 64 0 0 0 0 0))).map (fun t => regValue t .gbStateR) = some 0x101 := by decide

/-- R346's example: 63 values 1000 + (i mod 5), the 64th to come. -/
def tBuffer : State :=
  { ta 1003 0 0 0 0 0 with
    gb := { state := .ready, mono := false, pageSize := 64, size := 63, blk := [],
            pend := (List.range 63).map (fun i => u64 (1000 + i % 5)) ++ [0], ipos := 0, iend := 0 } }

set_option maxRecDepth 20000 in
/-- R346's example: the 64th value packs block 0 with base 1000, width 3, 3 words. -/
theorem test_gbAdd : (nextOf (exec .gbAdd tBuffer)).map
      (fun t => (t.res.r0, gbUsed t.gb, t.gb.blk.map (fun b => (b.base, b.bits)), gbValue t.gb 63)) =
    some (63, 3, [(1000, 3)], 1003) := by decide

/-- R347: a pending value, and an index past the size. -/
theorem test_gbGet : resOf (exec .gbGet { tBuffer with args := { a0 := 7 } }) = some (0, 1002, 0) ∧
    errOf (exec .gbGet { tBuffer with args := { a0 := 63 } }) = some (9, 63) := by decide

/-- R348, R349: the iterator's end, a value, and the end of the values. -/
theorem test_gbIter : resOf (exec .gbIterReset tBuffer) = some (0, 63, 0) ∧
    resOf (exec .gbIterNext { tBuffer with gb := { tBuffer.gb with ipos := 62, iend := 63 } }) = some (0, 1002, 1) ∧
    resOf (exec .gbIterNext tBuffer) = some (0, 0, 0) := by decide

/-! ## The dynamic arrays (45) -/

/-- The array of R383's example, index 3 holding 3. -/
def tArray : State := { ts with gw := { state := .ready, size := 8, bpv := 2, val := [(3, 3)] } }

/-- R383's example. -/
theorem test_gwInit : (nextOf (exec (.gwInit 2) (ta 8 0 0 0 0 0))).map (fun t => (t.gw.bpv, t.gw.size, gwUsed t.gw)) =
    some (2, 8, 1) := by decide

/-- R384's example. -/
theorem test_gwGet : resOf (exec .gwGet { tArray with args := { a0 := 3 } }) = some (0, 3, 0) := by decide

/-- R385's example: 1000 widens the array to 10 bits, 2 words; index 3 still reads 3. -/
theorem test_gwSet : (nextOf (exec .gwSet { tArray with args := { a0 := 5, a1 := 1000 } })).map
      (fun t => (t.res.r0, gwUsed t.gw, gwValue t.gw 5, gwValue t.gw 3)) = some (10, 2, 1000, 3) := by decide

/-- R386: a truncation drops index 3, and a size past the store is rejected with the words it needs. -/
theorem test_gwResize : (nextOf (exec .gwResize { tArray with args := { a0 := 3 } })).map
      (fun t => (t.gw.size, gwValue t.gw 3)) = some (3, 0) ∧
    errOf (exec .gwResize { tArray with args := { a0 := 129 } }) = some (2, 5) := by decide

/-- The array of R392's example. -/
def tPaged : State :=
  { ts with pg := { state := .ready, size := 200, shift := 6, bpv0 := 1,
                    pages := [⟨1, []⟩, ⟨1, []⟩, ⟨1, []⟩, ⟨1, []⟩] } }

/-- R392's example. -/
theorem test_pgInit : (nextOf (exec (.pgInit 1) (ta 200 6 0 0 0 0))).map (fun t => (t.pg, pgUsed t.pg)) =
    some (tPaged.pg, 4) := by decide

/-- R394's example: 300 at index 70 widens page 1 to 9 bits, 12 words in all. -/
theorem test_pgSet : (nextOf (exec .pgSet { tPaged with args := { a0 := 70, a1 := 300 } })).map
      (fun t => (t.res.r0, pgUsed t.pg, pgValue t.pg 70, pgValue t.pg 71)) = some (9, 12, 300, 0) := by decide

/-- The array after R394's example. -/
def tPaged2 : State := { tPaged with pg := { tPaged.pg with pages := [⟨1, []⟩, ⟨9, [(6, 300)]⟩, ⟨1, []⟩, ⟨1, []⟩] } }

/-- R393's and R397's examples. -/
theorem test_pgGet : resOf (exec .pgGet { tPaged2 with args := { a0 := 70 } }) = some (0, 300, 0) ∧
    resOf (exec .pgPageBpv { tPaged2 with args := { a0 := 1 } }) = some (0, 9, 0) := by decide

/-- R395's example: 130 values keep three pages. -/
theorem test_pgResize : (nextOf (exec .pgResize { tPaged2 with args := { a0 := 130 } })).map
      (fun t => (t.pg.pages.map PgPage.w, pgUsed t.pg, pgValue t.pg 70)) = some ([1, 9, 1], 11, 300) := by decide

/-- R396: a minimum at the size is a no-op; 131 grows the 130 values to 147. -/
theorem test_pgGrow : resOf (exec .pgGrow { tPaged2 with args := { a0 := 200 } }) = some (0, 200, 0) ∧
    resOf (exec .pgGrow { tPaged2 with pg := { tPaged2.pg with size := 130, pages := tPaged2.pg.pages.take 3 }
                                       args := { a0 := 131 } }) = some (0, 147, 0) := by decide

/-! ## The Elias-Fano codec (46, 47) -/

/-- The operands of R433's example: n = 6, U = 100, I = 2, the three regions of one word at 64, 72, 80. -/
def tEf : State := ta 6 100 2 64 72 80

/-- R433's example. -/
theorem test_efeInit : (nextOf (exec .efeInit tEf)).map (fun t => (t.res, t.efe.e, t.efe.nidx)) =
    some ({ r0 := 4, r1 := 1, r2 := 1, r3 := 1 }, 4, 3) := by decide

/-- The encoding of 2, 2, 5, 9, 9 (R434's example), before 100. -/
def tEfe : State :=
  { tEf with
    efe := { state := .encoding, n := 6, u := 100, i := 2, l := 4, e := 4, nidx := 3, numEnc := 5, last := 9, ub := 64,
             lb := 72, ib := 80, next := 0 }
    mem := [(71, 0x1F), (72, 0x22), (73, 0x59), (74, 0x90)]
    args := { tEf.args with a0 := 100 } }

/-- R434's example: 100 sets upper bit 11 and writes the entries 7, 9, 11. -/
theorem test_efeEncode : (nextOf (exec .efeEncode tEfe)).map
      (fun t => (t.res.r0, readWord t.mem 64, readWord t.mem 72, readWord t.mem 80)) =
    some (6, 0x81F, 0x2259940000000000, 0x79B0000000000000) := by decide

/-- R435's example: n = 0, U = 10, I = 2: the entries 2, 4, 6, 8, 10 of width 4. -/
theorem test_efeFinish : (nextOf (exec .efeFinish
      { ts with efe := { state := .encoding, n := 0, u := 10, i := 2, l := 0, e := 4, nidx := 5, numEnc := 0, last := 0,
                         ub := 64, lb := 72, ib := 80, next := 0 } })).map
        (fun t => (t.res.r0, readWord t.mem 80, t.efe.state)) = some (0, 0x2468A00000000000, .finished) := by decide

/-- The encoding of [2, 2, 5, 9, 9, 100] and a decoder open on it (R475's example). -/
def tEfd : State :=
  { tEf with
    mem := [(70, 0x08), (71, 0x1F), (72, 0x22), (73, 0x59), (74, 0x94), (80, 0x79), (81, 0xB0)]
    efd := efdInitContext tEf.args }

/-- R474: the regions decode to the sequence. -/
theorem test_efSequence : efdSequence tEfd = some [2, 2, 5, 9, 9, 100] := by decide

/-- R436: the same regions before `EFE_FINISH`, all six values encoded and all entries written, hold no valid encoding. -/
theorem test_efSequence_unfinished :
    efdSequence { tEfd with efe := { tEfe.efe with numEnc := 6, last := 100, next := 3 } } = none ∧
    efdSequence { tEfd with efe := { tEfe.efe with numEnc := 6, last := 100, next := 3, state := .finished } } =
      some [2, 2, 5, 9, 9, 100] := by decide

/-- R475's example. -/
theorem test_efdInit : (nextOf (exec .efdInit tEf)).map (fun t => (t.res.r0, regValue t .efdIndex)) =
    some (4, 0xFFFFFFFFFFFFFFFF) := by decide

/-- R476's example: the first value. -/
theorem test_efdNext : resOf (exec .efdNext tEfd) = some (0, 2, 0) := by decide

/-- R477's example: the first value at least 9 is at index 3. -/
theorem test_efdAdvance : resOf (exec .efdAdvance { tEfd with args := { a0 := 9 } }) = some (0, 9, 3) := by decide

/-- The decoder after the sequence (R481's example). -/
def tAfter : State := { tEfd with efd := { tEfd.efd with dir := .backward, idx := 6, hp := 12 } }

/-- R481's and R480's examples. -/
theorem test_efdTo : (nextOf (exec .efdToAfter tEfd)).map
      (fun t => (regValue t .efdIndex, regValue t .efdHighPos, regValue t .efdStateR)) = some (6, 12, 0x101) ∧
    (nextOf (exec .efdToBefore tAfter)).map State.efd = some tEfd.efd := by decide

/-- R478's example. -/
theorem test_efdPrev : resOf (exec .efdPrev tAfter) = some (0, 100, 5) := by decide

/-- R479's example: at index 5, the last value at most 8 is 5. -/
theorem test_efdBack : resOf (exec .efdBack { tAfter with efd := { tAfter.efd with idx := 5 }, args := { a0 := 8 } }) =
    some (0, 5, 2) := by decide

/-- R482's example: the cursor at index 3. -/
theorem test_efdCurrent : resOf (exec .efdCurrent { tEfd with efd := { tEfd.efd with idx := 3 } }) = some (0, 9, 3) := by
  decide

/-! ## The host's side (10_state, 60, 70) -/

/-- R536, R540: a CMD write is accepted while idle and dropped while BUSY. -/
theorem test_cmd : (nextOf (step (tStore ts 0x010 0x2A))).map (fun t => (statusWord t.status, t.cmd)) =
      some (0x2A0001, 0x2A) ∧
    (nextOf (step (tStore (tBusy 0x2A) 0x010 0x22))).map (fun t => (statusWord t.status, t.cmd)) =
      some (0x2A0009, 0x2A) := by decide

/-- R142: an illegal word completes with IllegalCommand and itself as ERRINFO. -/
theorem test_illegal_word : (nextOf (step (tBusy 0x10022))).map (fun t => (statusWord t.status, t.errInfo)) =
    some (0x220516, 0x10022) := by decide

/-- R31, R46: ID and P_MEM_BYTES. -/
theorem test_loads : (nextOf (step (tLoad ts 0x000))).map State.hostData = some 0x42503634 ∧
    (nextOf (step (tLoad ts 0x0C0))).map State.hostData = some 4096 := by decide

/-- R102, R190: `st8` stores the most significant byte first. -/
theorem test_st8 : (nextOf (step { ts with inputs := [.host (.memStoreWord 8 0x1122334455667788)] })).map
      (fun t => (readByte t.mem 8, readByte t.mem 15)) = some (0x11, 0x88) := by decide

/-- R32, R100 (log 16): the host accesses without a meaning stop by name. -/
theorem test_stops :
    (match step { ts with inputs := [.host (.regLoad 4 0x80000000)] } with
     | .refused r => some r | _ => none) = some .windowAccessNotAligned64 ∧
    (match step { ts with inputs := [.host (.regLoad 8 0x90000000)] } with
     | .refused r => some r | _ => none) = some .addressOutsideWindow ∧
    (match step { ts with inputs := [.host (.memLoadWord 4089)] } with
     | .fault r => some r | _ => none) = some (.hostDataAddressOutside 4089) := by decide

/-- R582: a soft reset while a command runs leaves STATUS 0 and keeps the data memory the command does not write. -/
theorem test_softReset : (nextOf (step (tStore { tBusy 0x2A with mem := [(0, 1)] } 0x020 0x8000000000000003))).map
      (fun t => (statusWord t.status, t.ctrl, t.mem)) = some (0, {}, [(0, 1)]) := by decide

/-! ## Witnesses: states and operands that meet the hypotheses of the statements, at the edges of their clauses -/

/-- An outcome that is a next state with a property. -/
theorem next_of {o : Host.Outcome State Fault Refusal} (p : State → Prop) [DecidablePred p]
    (h : (nextOf o).any (fun t => decide (p t)) = true) : ∃ t, o = .next t ∧ p t := by
  cases o with
  | next t => exact ⟨t, rfl, by simpa [nextOf] using h⟩
  | fault _ => simp [nextOf] at h
  | refused _ => simp [nextOf] at h

/-- `tStore` meets `nextIsStore`. -/
theorem tStore_isStore (s : State) (off : Nat) (v : Word) (h : s.cfg.regBase.toNat % 8 = 0) :
    nextIsStore (tStore s off v) off v [] := ⟨h, rfl⟩

/-- A state whose next input is a store to the window in the step of a completion. -/
def tStoreAtEnd (s : State) (off : Nat) (v : Word) : State :=
  { s with inputs := [.hostAndEngine (.regStore 8 (s.cfg.regBase + u64 off) v)] }

/-- `tStoreAtEnd` meets `nextIsStoreAtCompletion` and `storeArrives`. -/
theorem tStoreAtEnd_arrives (s : State) (off : Nat) (v : Word) (h : s.cfg.regBase.toNat % 8 = 0) :
    nextIsStoreAtCompletion (tStoreAtEnd s off v) off v [] ∧ storeArrives (tStoreAtEnd s off v) off v :=
  ⟨⟨h, rfl⟩, [], .inr ⟨h, rfl⟩⟩

/-- `tLoad` meets `nextIsLoad`. -/
theorem tLoad_isLoad (s : State) (off : Nat) (h : s.cfg.regBase.toNat % 8 = 0) : nextIsLoad (tLoad s off) off [] :=
  ⟨h, rfl⟩

theorem test_witness_DecodeOfEncode : WellFormed (.bpGeom 127 .singleBlock) ∧ WellFormed (.pgInit 0) ∧ WellFormed .nop := by
  decide

theorem test_witness_EncodeOfDecode : decode 0xFF02 = .ok (.bpGeom 127 .singleBlock) ∧ decode 0x5F = .ok .efdCurrent := by
  decide

theorem test_witness_IllegalWordsComplete :
    ((tBusy 0x60).inputs = [] ∧ { tBusy 0x60 with inputs := [.engine] }.inputs = .engine :: [] ∧ (tBusy 0x60).status.busy = true ∧ (tBusy 0x60).hazard = {} ∧
      decode (tBusy 0x60).cmd = .error .unassignedOpcode) ∧
    (¬ (1 ≤ 0 ∧ 0 ≤ 64) ∧ ¬ (1 ≤ 65 ∧ 65 ≤ 64)) ∧ (0 ∉ sbWidths ∧ 11 ∉ sbWidths ∧ 33 ∉ sbWidths) := by decide

theorem test_witness_StepRunsTheHeldCommand :
    ({ tBusy 0x2A with inputs := [.engine] }.status.busy = true ∧ decode (tBusy 0x2A).cmd = .ok .ddNext ∧
      (tBusy 0x2A).inputs = [] ∧ (tBusy 0x2A).hazard = {}) ∧ WellFormed .ddNext := by decide

/-- R536: the CMD write while idle, with the engine's turn next. -/
theorem test_witness_CmdRegister_idle :
    nextIsStore { tStore ts 0x010 0x2A with inputs := [.host (.regStore 8 (ts.cfg.regBase + u64 0x010) 0x2A), .engine] }
      0x010 0x2A [.engine] ∧ ts.status.busy = false ∧ ts.hazard = {} ∧ decode 0x2A = .ok .ddNext := by
  refine ⟨⟨?_, rfl⟩, ?_⟩ <;> decide

/-- R540: the CMD write while BUSY; a step of a state with OVR set. -/
theorem test_witness_CmdRegister_busy :
    (nextIsStore (tStore (tBusy 0x2A) 0x010 0x22) 0x010 0x22 [] ∧ (tStore (tBusy 0x2A) 0x010 0x22).status.busy = true) ∧
    (tpar.legal ∧ ∃ t, step { tBusy 0 with status := { busy := true, ovr := true } } = .next t ∧ t.status.ovr = true) :=
  ⟨⟨tStore_isStore _ _ _ (by decide), by decide⟩, by decide, next_of _ (by decide)⟩

theorem test_witness_ErrorsArePrecise :
    (ts.status.err = false ∧ ∃ t, exec .gwGet ts = .next t ∧ t.status.err = true) ∧
    ∃ t, exec .ddNext { tReader with inEnd := 16 } = .next t ∧ t.status.err = true :=
  ⟨⟨by decide, next_of _ (by decide)⟩, next_of _ (by decide)⟩

theorem test_witness_ResultAndErrorRegisters :
    (∃ t, exec .ddSkip ts = .next t ∧ t.status.err = true) ∧ writesRes .ddSkip 0 = false ∧ writesRes (.fsSelect 8) 3 = false ∧
    nextIsLoad (tLoad ts 0x038) 0x038 [] ∧ nextIsStore (tStore ts 0x038 1) 0x038 1 [] ∧
    (∃ t, step (tBusy 0x41) = .next t ∧ t.errInfo = (tBusy 0x41).errInfo) ∧
    (ts.status.busy = false ∧ nextIsLoad (tLoad ts 0x098) (0x080 + 8 * 3) [] ∧ nextIsLoad (tLoad (tBusy 0) 0x010) 0x010 []) :=
  ⟨next_of _ (by decide), by decide, by decide, tLoad_isLoad _ _ (by decide), tStore_isStore _ _ _ (by decide),
    next_of _ (by decide), by decide, tLoad_isLoad _ _ (by decide), tLoad_isLoad _ _ (by decide)⟩

theorem test_witness_IrqStatusRegister : nextIsLoad (tLoad ts 0x030) 0x030 [] ∧ nextIsStore (tStore ts 0x030 3) 0x030 3 [] ∧
    tpar.legal ∧ ts.status.err = false ∧ ∃ t, step (tBusy 0x41) = .next t ∧ t.status.busy = false ∧ t.status.err = true :=
  ⟨tLoad_isLoad _ _ (by decide), tStore_isStore _ _ _ (by decide), by decide, by decide, next_of _ (by decide)⟩

theorem test_witness_InterruptOutput : tpar.legal ∧ ts.status.err = false ∧
    (∃ t, step { tBusy 0 with irq := { doneIrq := true, errIrq := true } } = .next t ∧ t.irq.errIrq = true) ∧
    (∃ t, step { tStore ts 0x030 1 with irq := { doneIrq := true } } = .next t ∧ t.irq.doneIrq = false) ∧
    ((tBusy 0x41).status.busy = true ∧ nextIsStoreAtCompletion (tStoreAtEnd (tBusy 0x41) 0x030 3) 0x030 3 [] ∧
      ∃ t, step (tStoreAtEnd (tBusy 0x41) 0x030 3) = .next t ∧ t.irq = { doneIrq := true, errIrq := true }) :=
  ⟨by decide, by decide, next_of _ (by decide), next_of _ (by decide), by decide,
    (tStoreAtEnd_arrives _ _ _ (by decide)).1, next_of _ (by decide)⟩

theorem test_witness_ControlRegisters : nextIsLoad (tLoad ts 0x028) 0x028 [] ∧ nextIsStore (tStore ts 0x028 0x18) 0x028 0x18 [] ∧
    nextIsLoad (tLoad ts 0x020) 0x020 [] ∧ nextIsStore (tStore ts 0x020 3) 0x020 3 [] ∧ (3 : Word).getLsbD 63 = false ∧
    nextIsLoad (tLoad (tBusy 0) 0x018) 0x018 [] :=
  ⟨tLoad_isLoad _ _ (by decide), tStore_isStore _ _ _ (by decide), tLoad_isLoad _ _ (by decide),
    tStore_isStore _ _ _ (by decide), by decide, tLoad_isLoad _ _ (by decide)⟩

theorem test_witness_ReadOnlyRegisters : tpar.legal ∧ nextIsLoad (tLoad ts 0x000) 0x000 [] ∧
    nextIsStore (tStore ts 0x100 7) 0x100 7 [] ∧ nextIsLoad (tLoad ts 0xFF8) 0xFF8 [] ∧
    (0xFF8 ∉ windowOffsets ∧ 0x108 ∉ windowOffsets ∧ 0x418 ∉ windowOffsets) ∧
    ((0x200, 258) ∈ deltaRegisters { ts with de := { state := .buffering, mono := true } } ∧ (0x320, 4) ∈ arrayRegisters tPaged ∧
      (0x328, 12) ∈ arrayRegisters tPaged2 ∧ (0x3E8, 6) ∈ eliasFanoRegisters tAfter) ∧
    nextIsLoad (tLoad tAfter 0x3E8) 0x3E8 [] :=
  ⟨by decide, tLoad_isLoad _ _ (by decide), tStore_isStore _ _ _ (by decide), tLoad_isLoad _ _ (by decide), by decide,
    by decide, tLoad_isLoad _ _ (by decide)⟩

theorem test_witness_HostOperandRegisters : ts.status.busy = false ∧ nextIsLoad (tLoad ts 0x040) (0x040 + 8 * 0) [] ∧
    nextIsStore (tStore ts 0x078 7) (0x040 + 8 * 7) 7 [] ∧ nextIsStore (tStore ts 0x0A0 7) 0x0A0 7 [] ∧
    nextIsLoad (tLoad ts 0x0B8) 0x0B8 [] :=
  ⟨by decide, tLoad_isLoad _ _ (by decide), tStore_isStore _ _ _ (by decide), tStore_isStore _ _ _ (by decide),
    tLoad_isLoad _ _ (by decide)⟩

/-- A host store into the range a running command reads, and one while idle; neither is a reset. -/
theorem test_witness_HostAccessFrame :
    (∃ t, step { tBusy 0 with inputs := [.host (.memStoreByte 4095 1)] } = .next t ∧ t.inputs = []) ∧
    (∃ t, step { ts with inputs := [.host (.memStoreWord 4088 1)] } = .next t ∧ t.inputs = []) ∧
    nextIsLoad (tLoad (tBusy 0) 0x078) (0x040 + 8 * 7) [] ∧
    ¬ ∃ rest, nextIsReset { ts with inputs := [.host (.memStoreWord 4088 1)] } rest := by
  refine ⟨next_of _ (by decide), next_of _ (by decide), tLoad_isLoad _ _ (by decide), ?_⟩
  rintro ⟨_, h | ⟨_, _, ⟨_, h⟩ | ⟨_, h⟩⟩⟩ <;> simp at h

theorem test_witness_BigEndianElements : Memory.wf [(4088, 1)] = true ∧ ts.status.busy = false ∧ 4088 + 8 ≤ ts.cfg.memBytes := by
  decide

/-- R45: ID, a parameter register, the last register and a reserved offset. -/
theorem test_witness_ResetStateHolds :
    [0x000, 0x100, 0x410, 0xFF8].map (fun off => decide (off < 4096 ∧ off % 8 = 0)) = [true, true, true, true] ∧
    (nextOf (step (tLoad ts 0x410))).map State.hostData = some 0 := by decide

theorem test_witness_ResetEndsEverything :
    nextIsReset { tBusy 0x2A with inputs := [.hardReset] } [] ∧ nextIsReset (tStore ts 0x020 0x8000000000000000) [] ∧
    nextIsReset (tStoreAtEnd (tBusy 0x2A) 0x020 0x8000000000000000) [] :=
  ⟨.inl rfl, .inr ⟨_, by decide, .inl (tStore_isStore _ _ _ (by decide))⟩,
    .inr ⟨0x8000000000000000, by decide, .inr ⟨by decide, rfl⟩⟩⟩

theorem test_witness_SystemCommands : (ta 127 0 0 0 0 0).args.a0.toNat < 2 ^ 7 ∧ 2 ^ 7 ≤ (ta 128 0 0 0 0 0).args.a0.toNat := by
  decide

theorem test_witness_FsSelectChooses : ¬ (1 ≤ 0 ∧ 0 ≤ 64) ∧ (1 ≤ 64 ∧ 64 ≤ 64) ∧
    (∃ t, exec (.fsSelect 1) (ta 0 0 0 0 0 0) = .next t ∧ t.res.r1 = 1) ∧
    ∃ t, exec (.fsSelect 64) (ta 0 0xFFFFFFFFFFFFFFFF 0 0 0 0) = .next t ∧ t.res.r1 = 64 :=
  ⟨by decide, by decide, next_of _ (by decide), next_of _ (by decide)⟩

theorem test_witness_BpGeomCounts : 32 ∈ sbWidths ∧ 1 ∈ sbWidths ∧ checkWidth 0 .packed ≠ none ∧
    checkWidth 65 .packed ≠ none ∧ checkWidth 64 .singleBlock ≠ none := by decide

/-- Adjacent arrays, the destination at the end of the data memory, and 0 iterations. -/
theorem test_witness_BpDecodePacked :
    (let s := ta 0 0 104 0 1 0
     let nv := s.args.a4.toNat * (64 / Nat.gcd 13 64)
     let nw := s.args.a4.toNat * (13 / Nat.gcd 13 64)
     (s.args.a0.toNat + 8 * s.args.a1.toNat) % 8 = 0 ∧ (0 : Nat) + 8 * nw ≤ 104 ∧ 104 + 8 * nv ≤ s.cfg.memBytes) ∧
    (let s := ta 3 0 4032 0 1 0
     3 + s.args.a4.toNat * (13 / Nat.gcd 13 8) ≤ 4032 ∧
       4032 + 8 * (s.args.a4.toNat * (8 / Nat.gcd 13 8)) = s.cfg.memBytes) ∧ ts.mem.wf = true := by decide

theorem test_witness_BpDecodeSingleBlock : 21 ∈ sbWidths ∧ ts.mem.wf = true ∧
    (let s := ta 0 1 16 0 1 0
     s.args.a0.toNat + 8 * s.args.a1.toNat + 8 * s.args.a4.toNat ≤ 16 ∧ 16 + 8 * (s.args.a4.toNat * (64 / 21)) ≤ s.cfg.memBytes) ∧
    (let s := ta 4088 0 8 0 1 0
     4088 + 8 * s.args.a4.toNat ≤ s.cfg.memBytes ∧ 8 + 8 * (s.args.a4.toNat * (64 / 21)) ≤ 4088) := by decide

theorem test_witness_BpEncodePacked : ts.mem.wf = true ∧
    (let s := ta 0 0 512 0 1 0
     8 * (s.args.a4.toNat * (64 / Nat.gcd 13 64)) ≤ 512 ∧ 512 + 8 * (s.args.a4.toNat * (13 / Nat.gcd 13 64)) ≤ s.cfg.memBytes) ∧
    (let s := ta 0 0 4083 0 1 0
     8 * (s.args.a4.toNat * (8 / Nat.gcd 13 8)) ≤ 4083 ∧ 4083 + s.args.a4.toNat * (13 / Nat.gcd 13 8) = s.cfg.memBytes) := by
  decide

theorem test_witness_BpEncodeSingleBlock : 3 ∈ sbWidths ∧ ts.mem.wf = true ∧
    (let s := ta 0 0 168 0 1 0
     8 * (s.args.a4.toNat * (64 / 3)) ≤ 168 ∧ 168 + 8 * s.args.a4.toNat ≤ s.cfg.memBytes) ∧
    (let s := ta 8 0 0 0 1 0
     0 + 8 * s.args.a4.toNat ≤ 8 ∧ 8 + 8 * (s.args.a4.toNat * (64 / 3)) ≤ s.cfg.memBytes) := by decide

/-- Misaligned and outside sources and destinations, and 0 iterations. -/
theorem test_witness_BpCommandsReject : checkWidth 13 .packed = none ∧ (ta 0 0 0 0 0 0).args.a4 = 0 ∧
    (ta 0 0 0 0 1 0).args.a4 ≠ 0 ∧ (bpArraysDecLL 13 .packed (ta 1 0 256 0 1 0)).src % 8 ≠ 0 ∧
    (let b := bpArraysDecLL 13 .packed (ta 4000 0 0 0 1 0)
     b.src % 8 = 0 ∧ 4096 < b.src + b.srcBytes) ∧
    (let b := bpArraysEncLL 13 .packed (ta 0 0 4095 0 1 0)
     b.src % 8 = 0 ∧ b.src + b.srcBytes ≤ 4096 ∧ b.dst % 8 ≠ 0) ∧
    (let b := bpArraysDecBL 13 .packed (ta 0 0 4040 0 1 0)
     b.src + b.srcBytes ≤ 4096 ∧ b.dst % 8 = 0 ∧ 4096 < b.dst + b.dstBytes) ∧
    (let b := bpArraysEncLB 13 .packed (ta 0 0 4084 0 1 0)
     b.src % 8 = 0 ∧ b.src + b.srcBytes ≤ 4096 ∧ 4096 < b.dst + b.dstBytes) := by decide

theorem test_witness_UnspecifiedResultsStayInside :
    (checkWidth 13 .packed = none ∧ bpCheckDecLL 13 .packed (ta 0 0 96 0 1 0) = none ∧
      bpOverlap (bpArraysDecLL 13 .packed (ta 0 0 96 0 1 0)) = true) ∧
    (tpar.legal ∧ EfeInv tpar tEfe.efe ∧ (∃ t, exec .efeInit (ta 6 100 2 64 64 80) = .next t ∧ t.status.err = false) ∧
      ∃ t, exec .efeEncode { tEfe with efe := { tEfe.efe with lb := 64 } } = .next t ∧ t.status.err = false) ∧
    (tEfd.efd.state = .ready ∧ efdSequence { tEfd with mem := [] } = none ∧ tEfd.efd.dir = .forward ∧
      efdSequence { tAfter with mem := [] } = none ∧ tAfter.efd.dir = .backward) ∧
    (tEfe.efe.state = .encoding ∧ (∃ r ∈ efRegions (efeLayout tEfe.efe), r.1 ≤ 64 ∧ 64 < r.1 + r.2) ∧
      (∃ r ∈ efRegions (efdLayout tEfd.efd), r.1 ≤ 64 ∧ 64 < r.1 + r.2)) :=
  ⟨by decide, ⟨by decide, by decide, next_of _ (by decide), next_of _ (by decide)⟩, by decide, by decide⟩

/-- Encoding at width 1 from 0 to 512, and decoding back to 1024. -/
theorem test_witness_BpRoundTrip : ts.mem.wf = true ∧ checkWidth 1 .packed = none ∧
    (let s := ta 0 0 512 0 1 0
     let b := bpArraysEncLL 1 .packed s
     bpCheckEncLL 1 .packed s = none ∧ bpOverlap b = false ∧ 1024 + 8 * b.values ≤ s.cfg.memBytes ∧ b.dst + b.dstBytes ≤ 1024) ∧
    (let s := ta 0 0 513 0 1 0
     let b := bpArraysEncLB 1 .packed s
     bpCheckEncLB 1 .packed s = none ∧ bpOverlap b = false ∧ 1024 + 8 * b.values ≤ s.cfg.memBytes ∧ b.dst + b.dstBytes ≤ 1024) ∧
    (let s := ta 0 0 512 0 1 0
     let b := bpArraysEncLL 21 .singleBlock s
     checkWidth 21 .singleBlock = none ∧ bpCheckEncLL 21 .singleBlock s = none ∧ bpOverlap b = false ∧
      1024 + 8 * b.values ≤ s.cfg.memBytes ∧ b.dst + b.dstBytes ≤ 1024) ∧
    (∃ t, exec (.bpEncLL 21 .singleBlock) (ta 0 0 512 0 1 0) = .next t ∧ t.status.err = false) ∧
    ∃ t, exec (.bpEncLB 1 .packed) (ta 0 0 513 0 1 0) = .next t ∧ t.status.err = false := by
  refine ⟨by decide, by decide, by decide, by decide, by decide, next_of _ (by decide), next_of _ (by decide)⟩

theorem test_witness_BlockUnitsInitialise :
    ((∃ k, (64 : Nat) = 2 ^ k) ∧ ∃ k, (4096 : Nat) = 2 ^ k) ∧ ¬ (64 ≤ 32 ∧ 32 ≤ 4096) ∧ ¬ (64 ≤ 8192 ∧ 8192 ≤ 4096) :=
  ⟨⟨⟨6, by decide⟩, ⟨12, by decide⟩⟩, by decide⟩

set_option maxRecDepth 20000 in
theorem test_witness_DeltaWriterWrites :
    (tWriter.de.state = .buffering ∧ tWriter.mem.wf = true ∧ tWriter.outPtr.toNat ≤ tWriter.outEnd.toNat ∧
      tWriter.outEnd.toNat ≤ tWriter.cfg.memBytes ∧ tWriter.de.pending.toNat + 1 = tWriter.de.blockSize.toNat ∧
      16 + (encodeBlock false (tWriter.de.buf.take 63 ++ [5])).length = 18 ∧ tWriter.de.pending ≠ 0) ∧
    ((deInitContext true 64).state = .idle ∧ (deInitContext true 64).pending = 0 ∧
      (deInitContext true 64).pending.toNat + 1 ≠ (deInitContext true 64).blockSize.toNat) := by decide

set_option maxRecDepth 20000 in
theorem test_witness_DeltaCommandsReject :
    (ts.de.state = .uninit ∧ ({ tWriter.de with state := .finished } : DeltaEncoder).state = .finished ∧
      ¬ ((16 : Nat) ≤ 15 ∧ (15 : Nat) ≤ tpar.memBytes) ∧ ¬ ((16 : Nat) ≤ 4097 ∧ (4097 : Nat) ≤ tpar.memBytes) ∧
      17 < tWriter.outPtr.toNat + (encodeBlock false (tWriter.de.buf.take 63 ++ [5])).length) ∧
    (ts.dd.state = .uninit ∧ tReader.dd.state = .ready ∧ (ddInitContext false 64 0).ord = (ddInitContext false 64 0).count ∧
      tReader.dd.count.toNat < tReader.dd.ord.toNat + 5 ∧ tReader.dd.ord ≠ tReader.dd.count ∧
      tReader.dd.ord.toNat + 4 ≤ tReader.dd.count.toNat ∧
      ¬ (tReader.inPtr.toNat ≤ 15 ∧ (15 : Nat) ≤ tpar.memBytes)) := by decide

theorem test_witness_DeltaBlockSize : ([5] : List Word) ≠ [] ∧ (bvl 127).length = 1 ∧ (bvl 128).length = 2 ∧
    (bvl 0xFFFFFFFFFFFFFF).length = 8 ∧ (bvl 0x100000000000000).length = 9 := by decide

/-- R170: the block varint of 300 lies at 16. -/
theorem test_witness_DeltaCodesInvert : (∀ k, k < (bvl 300).length → readByte [(16, 0xAC), (17, 0x02)] (16 + k) = (bvl 300).getD k 0) ∧
    16 + (bvl 300).length ≤ 18 ∧ (0 : Word).toInt = 0 ∧ (0x8000000000000000 : Word).toInt < 0 := by decide

theorem test_witness_DeltaBlockReadsBack : ([5, 5] : List Word) ≠ [] ∧
    (∀ k, k < (encodeBlock false [5, 5]).length → readByte [(17, 0x0A)] (16 + k) = (encodeBlock false [5, 5]).getD k 0) ∧
    16 + (encodeBlock false [5, 5]).length ≤ 18 := by decide

theorem test_witness_DdNextReturnsValue : tReader.dd.state = .ready ∧ tReader.dd.ord ≠ tReader.dd.count ∧
    tReader.inPtr.toNat ≤ tReader.inEnd.toNat ∧ tReader.inEnd.toNat ≤ tReader.cfg.memBytes ∧
    tReader.dd.off = tReader.dd.blockSize ∧ (refillBlock false 4 tReader.mem 19 16).toOption.isSome = true ∧
    ({ tReader.dd with off := 1, ord := 1 } : DeltaDecoder).off ≠ tReader.dd.blockSize := by decide

/-- A reader at the start of 65 values 5: a block of 64 (2 bytes) and one of 1 (2 bytes). -/
def tReader2 : State :=
  { ts with dd := ddInitContext false 64 65, inPtr := 16, inEnd := 20, mem := [(17, 0x0A), (19, 0x0A)] }

set_option maxRecDepth 20000 in
theorem test_witness_DdSkipMoves : tReader2.dd.state = .ready ∧ DdInv tReader2.dd ∧
    tReader2.dd.ord.toNat + 65 ≤ tReader2.dd.count.toNat ∧ tReader2.inPtr.toNat ≤ tReader2.inEnd.toNat ∧
    tReader2.inEnd.toNat ≤ tReader2.cfg.memBytes ∧
    (skipBlocks false 64 tReader2.mem 20 ((64 - 0) / 64) 16).toOption = some 18 ∧
    (refillBlock false (min 64 (65 - (0 + 65 - 1))) tReader2.mem 20 18).toOption = some ([5], 20) ∧
    DdInv { tReader2.dd with off := 60, ord := 60 } ∧ (4 : Nat) ≤ 64 - 60 := by decide

theorem test_witness_DdStreamErrorsPoison :
    (tReader.dd.state = .ready ∧ tReader.dd.ord ≠ tReader.dd.count ∧ tReader.dd.off = tReader.dd.blockSize ∧
      ∃ t, exec .ddNext { tReader with inEnd := 16 } = .next t ∧ t.dd.state = .poisoned) ∧
    (129 < (readByte [(16, 130)] 16).toNat ∧ ∃ t, exec .ddSkip { tReader with mem := [(16, 130)], args := { a0 := 1 } } = .next t ∧
      t.status.err = true ∧ t.status.errCode = 1) ∧
    ∃ t, exec .unitReset { tReader with args := { a0 := 2 }, dd := { tReader.dd with state := .poisoned } } = .next t ∧
      t.dd.state ≠ .poisoned :=
  ⟨⟨by decide, by decide, by decide, next_of _ (by decide)⟩, ⟨by decide, next_of _ (by decide)⟩, next_of _ (by decide)⟩

/-- R308: one value read and one more. -/
theorem test_witness_SkipIsReadAndDiscard :
    DdInv tReader.dd ∧ ((nextTimes 1 tReader).bind (runOne .ddNext)).isSome = true ∧ (1 : Word) ≠ 0 := by decide

set_option maxRecDepth 20000 in
theorem test_witness_GbAddAppends : tBuffer.gb.state = .ready ∧
    tBuffer.gb.size.toNat - tBuffer.gb.blk.length * tBuffer.gb.pageSize.toNat + 1 = tBuffer.gb.pageSize.toNat ∧
    tBuffer.gb.blk.length < tBuffer.cfg.gbMaxBlocks ∧
    (let w := gbUsed tBuffer.gb + (64 * (packPlain (tBuffer.gb.pend.take 63 ++ [1003])).bits + 63) / 64
     w = 3 ∧ w ≤ tBuffer.cfg.gbStoreWords) ∧ (gbInitContext false 64).size.toNat + 1 ≠ 64 := by decide

theorem test_witness_GbReads : ts.gb.state = .uninit ∧ tBuffer.gb.state = .ready ∧ (62 : Nat) < tBuffer.gb.size.toNat ∧
    tBuffer.gb.size.toNat ≤ 63 ∧ tBuffer.gb.iend.toNat ≤ tBuffer.gb.ipos.toNat := by decide

set_option maxRecDepth 20000 in
theorem test_witness_GbKeepsValues : (0 : Nat) < ([7] : List Word).length ∧ tBuffer.gb.state = .ready ∧
    GbInv tBuffer.cfg tBuffer.gb ∧ tBuffer.gb.size.toNat + 1 < 2 ^ 64 ∧ tBuffer.status.err = false ∧
    ∃ t, exec .gbAdd tBuffer = .next t ∧ t.status.err = false :=
  ⟨by decide, by decide, by decide, by decide, by decide, next_of _ (by decide)⟩

theorem test_witness_GrowableWriterCommands : ((256 * 1 + 63) / 64 ≤ tpar.gwStoreWords) ∧ tArray.gw.state = .ready ∧
    GwInv tArray.cfg tArray.gw ∧ (7 : Nat) < tArray.gw.size.toNat ∧ (3 : Nat) < 2 ^ tArray.gw.bpv.toNat ∧
    (tArray.gw.size.toNat * bitlen 1000 + 63) / 64 ≤ tpar.gwStoreWords ∧
    (128 * tArray.gw.bpv.toNat + 63) / 64 ≤ tpar.gwStoreWords := by decide

theorem test_witness_DynamicArraysReject :
    (ts.gw.state = .uninit ∧ tpar.gwStoreWords < (257 * 1 + 63) / 64 ∧ tArray.gw.state = .ready ∧ tArray.gw.size.toNat ≤ 8 ∧
      (2 ^ tArray.gw.bpv.toNat ≤ (2 ^ 63 : Nat) ∧ tpar.gwStoreWords < (8 * bitlen (2 ^ 63) + 63) / 64) ∧
      tpar.gwStoreWords < (129 * tArray.gw.bpv.toNat + 63) / 64) ∧
    (ts.pg.state = .uninit ∧ ¬ (6 ≤ 5 ∧ 5 ≤ 30) ∧ ¬ (6 ≤ 31 ∧ 31 ≤ 30) ∧ tpar.pgMaxPages < (257 + (2 ^ 6 - 1)) / 2 ^ 6 ∧
      (256 + (2 ^ 6 - 1)) / 2 ^ 6 ≤ tpar.pgMaxPages ∧
      tpar.pgStoreWords < ((List.range 4).map (fun k => (min (2 ^ 6) (256 - k * 2 ^ 6) * 4 + 63) / 64)).sum) ∧
    (tPaged.pg.state = .ready ∧ tPaged.pg.size.toNat ≤ 200 ∧ pgNp tPaged.pg ≤ 4 ∧
      2 ^ 64 ≤ (2 ^ 64 - 1) + max 3 ((2 ^ 64 - 1) / 8)) := by decide

/-- R394, R395, R396: the words of a widened page, of a new page, and the pages of a growth. -/
theorem test_witness_DynamicArraysReject_capacity :
    PgInv tPaged2.cfg tPaged2.pg ∧ errOf (exec .pgSet { tPaged2 with args := { a0 := 199, a1 := 0xFFFFFFFF } }) = some (2, 15) ∧
    errOf (exec .pgResize { tPaged2 with pg := { tPaged2.pg with bpv0 := 2, size := 130, pages := tPaged2.pg.pages.take 3 },
                                         args := { a0 := 256 } }) = some (2, 13) ∧
    errOf (exec .pgGrow { tPaged2 with args := { a0 := 250 } }) = some (2, 5) :=
  ⟨by decide, by decide, by decide, by decide⟩

theorem test_witness_PagedArrayInitGetSet : ((256 + (2 ^ 6 - 1)) / 2 ^ 6 ≤ tpar.pgMaxPages ∧
      ((List.range 4).map (fun k => (min (2 ^ 6) (256 - k * 2 ^ 6) * 3 + 63) / 64)).sum ≤ tpar.pgStoreWords) ∧
    tPaged.pg.state = .ready ∧ PgInv tPaged.cfg tPaged.pg ∧ (199 : Nat) < tPaged.pg.size.toNat ∧ (3 : Nat) < pgNp tPaged.pg ∧
    ((List.range 4).map (fun k => (min (2 ^ 6) (200 - k * 2 ^ 6) * (if k = 1 then bitlen 300 else 1) + 63) / 64)).sum =
      tpar.pgStoreWords := by decide

theorem test_witness_PagedArrayResizeGrow : tPaged2.pg.state = .ready ∧ PgInv tPaged2.cfg tPaged2.pg ∧
    ((130 + (2 ^ 6 - 1)) / 2 ^ 6 ≤ tpar.pgMaxPages ∧
      ((List.range 3).map (fun k => (min (2 ^ 6) (130 - k * 2 ^ 6) * (if k = 1 then 9 else 1) + 63) / 64)).sum ≤
        tpar.pgStoreWords) ∧ tPaged2.pg.size.toNat ≤ 200 ∧
    (tPaged2.pg.size.toNat < 201 ∧ 201 + max 3 (201 / 8) < 2 ^ 64 ∧ (226 + (2 ^ 6 - 1)) / 2 ^ 6 ≤ tpar.pgMaxPages ∧
      ((List.range 4).map (fun k => (min (2 ^ 6) (226 - k * 2 ^ 6) * (if k = 1 then 9 else 1) + 63) / 64)).sum ≤
        tpar.pgStoreWords) := by decide

theorem test_witness_ArraysLoseNoValue : GwInv tArray.cfg tArray.gw ∧ PgInv tPaged2.cfg tPaged2.pg ∧
    (∃ t, exec .gwSet { tArray with args := { a0 := 5, a1 := 1000 } } = .next t ∧ t.status.err = false ∧ 3 < t.gw.size.toNat) ∧
    (∃ t, exec .pgResize { tPaged2 with args := { a0 := 130 } } = .next t ∧ t.status.err = false ∧ 70 < t.pg.size.toNat) ∧
    ∃ t, exec .gwResize { tArray with args := { a0 := 129 } } = .next t ∧ t.status.err = true ∧ t.status.errCode = 2 :=
  ⟨by decide, by decide, next_of _ (by decide), next_of _ (by decide), next_of _ (by decide)⟩

theorem test_witness_EfeInitStartsEncoding : tEf.mem.wf = true ∧
    (let y := efLayoutOfArgs tEf.args
     y.u ≤ 2 ^ 63 - 1 ∧ 2 ≤ y.i ∧ y.n ≤ tEf.cfg.efMaxValues ∧
      (∀ r ∈ efRegions y, r.2 = 0 ∨ (r.1 % 8 = 0 ∧ r.1 + r.2 ≤ tEf.cfg.memBytes)) ∧ efOverlap y = false) ∧
    (let y := efLayoutOfArgs (ta 0 0 2 4088 1 1).args
     y.n ≤ tpar.efMaxValues ∧ (∀ r ∈ efRegions y, r.2 = 0 ∨ (r.1 % 8 = 0 ∧ r.1 + r.2 ≤ tpar.memBytes)) ∧
      efOverlap y = false) := by decide

theorem test_witness_EfeEncodeStoresValue : tEfe.efe.state = .encoding ∧ EfeInv tEfe.cfg tEfe.efe ∧ tEfe.mem.wf = true ∧
    efOverlap (efeLayout tEfe.efe) = false ∧ tEfe.efe.numEnc ≠ tEfe.efe.n ∧
    tEfe.efe.last.toNat ≤ tEfe.args.a0.toNat ∧ tEfe.args.a0.toNat ≤ tEfe.efe.u.toNat := by decide

theorem test_witness_EfeFinishCompletesIndex :
    (let c : EfEncoder := { state := .encoding, n := 0, u := 10, i := 2, l := 0, e := 4, nidx := 5, numEnc := 0, last := 0,
                            ub := 64, lb := 72, ib := 80, next := 0 }
     c.state = .encoding ∧ EfeInv tpar c ∧ efOverlap (efeLayout c) = false ∧ c.numEnc = c.n) ∧ ts.mem.wf = true := by decide

theorem test_witness_EliasFanoRejects :
    (2 ^ 63 ≤ (efLayoutOfArgs (ta 6 0x8000000000000000 2 64 72 80).args).u ∧ (efLayoutOfArgs (ta 6 100 1 64 72 80).args).i < 2 ∧
      tpar.efMaxValues < (efLayoutOfArgs (ta 17 100 2 64 72 80).args).n) ∧
    (efRegions (efLayoutOfArgs (ta 6 100 2 64 73 80).args) = [(64, 8)] ++ (73, 8) :: [(80, 8)] ∧
      efRegions (efLayoutOfArgs (ta 6 100 2 64 72 4096).args) = [(64, 8), (72, 8)] ++ (4096, 8) :: []) ∧
    (ts.efe.state = .uninit ∧ tEfe.efe.state = .encoding ∧ ({ tEfe.efe with numEnc := 6 } : EfEncoder).numEnc = tEfe.efe.n ∧
      tEfe.efe.numEnc ≠ 0 ∧ (8 : Nat) < tEfe.efe.last.toNat ∧ tEfe.efe.u.toNat < 101) := by decide

theorem test_witness_EncodedSequenceDecodes : tEf.mem.wf = true ∧ tpar.legal ∧
    ([2, 2, 5, 9, 9, 100] : List Word).length = (efLayoutOfArgs tEf.args).n ∧
    ([2, 2, 5, 9, 9, 100] : List Word).Pairwise (fun a b => a.toNat ≤ b.toNat) ∧
    ∀ x ∈ ([2, 2, 5, 9, 9, 100] : List Word), x.toNat ≤ 100 :=
  ⟨by decide, by decide, by decide, by simp, by simp⟩

theorem test_witness_DecodedSequenceIsTheEncoded : efSequence tEfd.mem (efLayoutOfArgs tEf.args) = some [2, 2, 5, 9, 9, 100] ∧
    efSequence [] (efLayoutOfArgs tEf.args) = none := by decide

theorem test_witness_EfdInitOpens : (let y := efLayoutOfArgs (ta 0 0x7FFFFFFFFFFFFFFF 0x8000000000000000 0 72 80).args
     y.u ≤ 2 ^ 63 - 1 ∧ 2 ≤ y.i ∧ y.n ≤ tpar.efMaxValues) ∧
    (∀ r ∈ efRegions (efLayoutOfArgs tEf.args), r.2 = 0 ∨ (r.1 % 8 = 0 ∧ r.1 + r.2 ≤ tEf.cfg.memBytes)) ∧
    tEfd.efd.state = .ready := by decide

/-- The cursor before, inside and after the sequence. -/
theorem test_witness_EfdMovements : tEfd.efd.state = .ready ∧ efdSequence tEfd = some [2, 2, 5, 9, 9, 100] ∧ tEfd.efd.idx = -1 ∧
    tEfd.efd.dir = .forward ∧ efdSequence tAfter = some [2, 2, 5, 9, 9, 100] ∧ tAfter.efd.idx = 6 ∧ tAfter.efd.dir = .backward ∧
    (-1 ≤ tEfd.efd.idx ∧ tAfter.efd.idx ≤ 6) := by decide

theorem test_witness_EfdDirections : tEfd.efd.state = .ready ∧ tEfd.efd.dir = .forward ∧ tAfter.efd.state = .ready ∧
    tAfter.efd.dir = .backward ∧ ts.efd.state = .uninit ∧ ∃ t, exec .efdToAfter tEfd = .next t ∧ t.efd.dir ≠ tEfd.efd.dir :=
  ⟨by decide, by decide, by decide, by decide, by decide, next_of _ (by decide)⟩

theorem test_witness_StepKeepsMemoryInv : MemoryInv (tStore tEfe 0x010 0x51) ∧ HazardInv tEfe ∧
    ∃ t, step (tStore tEfe 0x010 0x51) = .next t ∧ t.status.busy = true :=
  ⟨by decide, by decide, next_of _ (by decide)⟩

set_option maxRecDepth 20000 in
theorem test_witness_StepKeepsDeltaInv : DeInv tWriter.de ∧ DdInv tReader.dd ∧
    ∃ t, step ({ tWriter with dd := tReader.dd }.accept 0x22) = .next t ∧ t.de.state = .idle :=
  ⟨by decide, by decide, next_of _ (by decide)⟩

set_option maxRecDepth 20000 in
theorem test_witness_StepKeepsGrowableBufferInv : tBuffer.cfg.gbMaxBlocks < 2 ^ 51 ∧ GbInv tBuffer.cfg tBuffer.gb ∧
    ∃ t, step (tBuffer.accept 0x32) = .next t ∧ t.gb.blk.length = 1 :=
  ⟨by decide, by decide, next_of _ (by decide)⟩

theorem test_witness_StepKeepsArrayInv : GwInv tArray.cfg tArray.gw ∧ PgInv tPaged2.cfg tPaged2.pg ∧
    ∃ t, step (({ tArray with pg := tPaged2.pg, args := { a0 := 5, a1 := 1000 } } : State).accept 0x42) = .next t ∧
      t.gw.bpv = 10 :=
  ⟨by decide, by decide, next_of _ (by decide)⟩

end Sys2Proof.Tests
end

section
/-! PROOFS. The codes of the delta block stream (00_scope R13, R14, 30_encoding R170, R176, 42_delta_encoder R269): the
zigzag code and the block varint invert, and the model's binary32 operations give the nearest values of the interchange
format. -/

namespace Sys2Proof.Machine

/-! ## Zigzag codes (00_scope R13) -/

/-- The arithmetic shift by 63 spreads the sign over the word. -/
theorem sshiftRight_63_eq (n : Word) : n.sshiftRight 63 = if n.msb then BitVec.allOnes 64 else 0#64 := by
  apply BitVec.eq_of_getLsbD_eq
  intro i hi
  have hright : (if n.msb then BitVec.allOnes 64 else 0#64).getLsbD i = n.msb := by
    cases n.msb <;> simp only [if_true, Bool.false_eq_true, if_false, BitVec.getLsbD_zero, BitVec.getLsbD_allOnes, hi,
      decide_true]
  rw [hright, BitVec.getLsbD_sshiftRight, decide_eq_false (by omega), Bool.not_false, Bool.true_and]
  rcases Nat.eq_zero_or_pos i with rfl | h
  · exact (BitVec.msb_eq_getLsbD_last n).symm
  · rw [if_neg (by omega)]

theorem zz_toNat (n : Word) :
    (zz n).toNat = if n.toNat < 2 ^ 63 then 2 * n.toNat else 2 ^ 65 - 1 - 2 * n.toNat := by
  rw [zz, sshiftRight_63_eq, BitVec.msb_eq_decide]
  by_cases h : n.toNat < 2 ^ 63
  · simp only [h, if_true]
    rw [if_neg (by simp; omega)]
    rw [BitVec.xor_zero, BitVec.toNat_shiftLeft, Nat.shiftLeft_eq]
    omega
  · simp only [h, if_false]
    rw [if_pos (by simp; omega), BitVec.xor_allOnes, BitVec.toNat_not, BitVec.toNat_shiftLeft, Nat.shiftLeft_eq]
    omega

theorem unzz_toNat (z : Word) :
    (unzz z).toNat = if z.toNat % 2 = 0 then z.toNat / 2 else 2 ^ 64 - 1 - z.toNat / 2 := by
  have hand : (z &&& 1).toNat = z.toNat % 2 := by
    rw [BitVec.toNat_and]; exact Nat.and_one_is_mod z.toNat
  by_cases h : z.toNat % 2 = 0
  · have h0 : z &&& 1 = 0 := BitVec.eq_of_toNat_eq (by rw [hand, h]; rfl)
    rw [if_pos h, unzz, h0]
    simp [Nat.shiftRight_eq_div_pow]
  · have h1 : z &&& 1 = 1 := BitVec.eq_of_toNat_eq (by rw [hand]; show _ = 1; omega)
    rw [if_neg h, unzz, h1, show (0 : Word) - 1 = BitVec.allOnes 64 from rfl, BitVec.xor_allOnes, BitVec.toNat_not,
      BitVec.toNat_ushiftRight, Nat.shiftRight_eq_div_pow]

theorem unzz_zz (n : Word) : unzz (zz n) = n := by
  apply BitVec.eq_of_toNat_eq
  have := n.isLt
  rw [unzz_toNat, zz_toNat]
  split <;> split <;> omega

theorem zz_unzz (z : Word) : zz (unzz z) = z := by
  apply BitVec.eq_of_toNat_eq
  have := z.isLt
  rw [zz_toNat, unzz_toNat]
  split <;> split <;> omega

theorem zz_toNat_of_nonneg (n : Word) (h : 0 ≤ n.toInt) : ((zz n).toNat : Int) = 2 * n.toInt := by
  have := n.isLt
  rw [BitVec.toInt_eq_toNat_cond] at *
  rw [zz_toNat]
  split <;> split at h <;> omega

theorem zz_toNat_of_neg (n : Word) (h : n.toInt < 0) : ((zz n).toNat : Int) = -2 * n.toInt - 1 := by
  have := n.isLt
  rw [BitVec.toInt_eq_toNat_cond] at *
  rw [zz_toNat]
  split <;> split at h <;> omega

/-! ## The block varint (30_encoding R170) -/

theorem bytesAt_cons (m : Memory) (a : Nat) (b : Byte) (bs : List Byte) :
    bytesAt m a (b :: bs) ↔ readByte m a = b ∧ bytesAt m (a + 1) bs := by
  constructor
  · intro h
    refine ⟨by simpa using h 0 (by simp), fun k hk => ?_⟩
    have := h (k + 1) (by simpa using hk)
    rwa [show a + (k + 1) = a + 1 + k by omega, List.getD_cons_succ] at this
  · rintro ⟨h0, ht⟩ k hk
    cases k with
    | zero => simpa using h0
    | succ k =>
      rw [show a + (k + 1) = a + 1 + k by omega, List.getD_cons_succ]
      exact ht k (by simpa using hk)

theorem bvlGroups_length_pos (k v : Nat) : 1 ≤ (bvlGroups k v).length := by
  cases k with
  | zero => simp [bvlGroups]
  | succ k => rw [bvlGroups]; split <;> simp

theorem bvlGroups_length_le (k v : Nat) : (bvlGroups k v).length ≤ k + 1 := by
  induction k generalizing v with
  | zero => simp [bvlGroups]
  | succ k ih =>
    rw [bvlGroups]
    split
    · simp
    · simpa using ih (v / 128)

theorem div_128_lt_of_lt_groups (k v : Nat) (h : v < 2 ^ (7 * (k + 1) + 8)) : v / 128 < 2 ^ (7 * k + 8) := by
  rw [Nat.div_lt_iff_lt_mul (by norm_num)]
  rwa [show 7 * (k + 1) + 8 = 7 * k + 8 + 7 by ring, Nat.pow_add] at h

/-- The groups after the first `sh` bits, read in front of the bits `acc`, add their value at its place. -/
theorem streamBvlGroups_bvlGroups (m : Memory) (fin k v sh acc p : Nat) (hv : v < 2 ^ (7 * k + 8))
    (hm : bytesAt m p (bvlGroups k v)) (hf : p + (bvlGroups k v).length ≤ fin) :
    streamBvlGroups m fin k sh acc p = .ok (acc + v * 2 ^ sh, p + (bvlGroups k v).length) := by
  have hp : p ≠ fin := by have := bvlGroups_length_pos k v; omega
  induction k generalizing v sh acc p with
  | zero =>
    obtain ⟨hb, -⟩ := (bytesAt_cons _ _ _ _).1 hm
    have hmod : v % 256 = v := Nat.mod_eq_of_lt hv
    simp [streamBvlGroups, streamByte, hp, hb, bvlGroups, hmod]
  | succ k ih =>
    by_cases h : v < 128
    · simp only [bvlGroups, h, if_true] at hm ⊢
      obtain ⟨hb, -⟩ := (bytesAt_cons _ _ _ _).1 hm
      have hmod : v % 256 = v := by omega
      simp [streamBvlGroups, streamByte, hp, hb, hmod, h]
    · simp only [bvlGroups, h, if_false, List.length_cons] at hm hf ⊢
      obtain ⟨hb, ht⟩ := (bytesAt_cons _ _ _ _).1 hm
      have hrest := ih (v / 128) (sh + 7) (acc + v % 128 * 2 ^ sh) (p + 1) (div_128_lt_of_lt_groups k v hv) ht
        (by omega) (by have := bvlGroups_length_pos k (v / 128); omega)
      have hmod : (v % 128 + 128) % 256 = v % 128 + 128 := by omega
      have hsum : acc + v % 128 * 2 ^ sh + v / 128 * 2 ^ (sh + 7) = acc + v * 2 ^ sh := by
        conv_rhs => rw [← Nat.mod_add_div v 128]
        ring
      simp [streamBvlGroups, streamByte, hp, hb, hmod, hrest, hsum]
      omega

theorem streamBvl_bvl (m : Memory) (v : Word) (p fin : Nat) (hm : bytesAt m p (bvl v))
    (hf : p + (bvl v).length ≤ fin) : streamBvl m fin p = .ok (v, p + (bvl v).length) := by
  rw [streamBvl, streamBvlGroups_bvlGroups m fin 8 v.toNat 0 0 p v.isLt hm hf]
  simp [bvl]

/-- Each byte of the varint is the group of seven bits at its place, with its continuation bit; the last allowed byte is
whole (30_encoding R170). -/
theorem bvlGroups_getD (k v j : Nat) (hv : v < 2 ^ (7 * k + 8)) (hj : j < (bvlGroups k v).length) :
    ((bvlGroups k v).getD j 0).toNat = if j = k then v / 2 ^ (7 * k)
      else v / 2 ^ (7 * j) % 2 ^ 7 + if j + 1 < (bvlGroups k v).length then 2 ^ 7 else 0 := by
  induction k generalizing v j with
  | zero =>
    obtain rfl : j = 0 := by simpa [bvlGroups] using hj
    have hmod : v % 256 = v := Nat.mod_eq_of_lt hv
    simp [bvlGroups, hmod]
  | succ k ih =>
    by_cases h : v < 128
    · simp only [bvlGroups, h, if_true, List.length_singleton] at hj ⊢
      obtain rfl : j = 0 := by omega
      simp
      omega
    · simp only [bvlGroups, h, if_false, List.length_cons] at hj ⊢
      cases j with
      | zero =>
        have := bvlGroups_length_pos k (v / 128)
        simp [show 0 < (bvlGroups k (v / 128)).length by omega]
        omega
      | succ j =>
        have hdiv (i : Nat) : v / 128 / 2 ^ (7 * i) = v / 2 ^ (7 * (i + 1)) := by
          rw [Nat.div_div_eq_div_mul, show 7 * (i + 1) = 7 + 7 * i by ring, Nat.pow_add]
        rw [List.getD_cons_succ, ih (v / 128) j (div_128_lt_of_lt_groups k v hv) (by omega), hdiv, hdiv]
        simp

/-! ## Rounding to the nearest integer, ties to even (00_scope R14) -/

/-- The integer of a sign and a magnitude. -/
def signed (neg : Bool) (n : Nat) : Int := if neg then -(n : Int) else n

@[simp] theorem signed_zero (neg : Bool) : signed neg 0 = 0 := by cases neg <;> rfl

@[simp] theorem natAbs_signed (neg : Bool) (n : Nat) : (signed neg n).natAbs = n := by cases neg <;> simp [signed]

theorem signed_neg_iff (neg : Bool) (n : Nat) (hn : 0 < n) : signed neg n < 0 ↔ neg = true := by
  cases neg <;> simp [signed, hn]

theorem signed_mul_signed (a b : Bool) (m n : Nat) : signed a m * signed b n = signed (xor a b) (m * n) := by
  cases a <;> cases b <;> simp [signed]

theorem signed_mul_natCast (a : Bool) (m n : Nat) : signed a m * (n : Int) = signed a (m * n) := by
  cases a <;> simp [signed]

theorem signed_of_int (x : Int) : signed (decide (x < 0)) x.natAbs = x := by
  by_cases h : x < 0
  · simp [signed, h, abs_of_neg h]
  · simp [signed, h, abs_of_nonneg (not_lt.1 h)]

theorem nearestEven_signed (neg : Bool) (num den r : Nat) (h : nearestEven num den r) :
    nearestEven (signed neg num) den (signed neg r) := by
  obtain ⟨hlo, hhi, htie⟩ := h
  cases neg with
  | false => exact ⟨hlo, hhi, htie⟩
  | true =>
    simp only [signed, if_true]
    refine ⟨by linarith, by linarith, fun ht => ?_⟩
    have := htie (ht.elim (fun e => .inr (by linarith)) fun e => .inl (by linarith))
    omega

theorem nearestEven_of_ratio (a c r : Int) (b d : Nat) (hb : 0 < b) (hd : 0 < d) (h : a * d = c * b)
    (hr : nearestEven a b r) : nearestEven c d r := by
  obtain ⟨hlo, hhi, htie⟩ := hr
  have hb' : (0 : Int) < b := by exact_mod_cast hb
  have hd' : (0 : Int) < d := by exact_mod_cast hd
  have hlo' := mul_le_mul_of_nonneg_right hlo hd'.le
  have hhi' := mul_le_mul_of_nonneg_right hhi hd'.le
  refine ⟨le_of_mul_le_mul_right (by linarith) hb', le_of_mul_le_mul_right (by linarith) hb', fun ht => htie ?_⟩
  refine ht.imp (fun e => ?_) fun e => ?_
  all_goals
    have e' := congrArg (· * (b : Int)) e
    exact mul_right_cancel₀ hd'.ne' (by linarith)

theorem nearestEven_roundHalfEven (num den : Nat) (hden : 0 < den) : nearestEven num den (roundHalfEven num den) := by
  have hdiv : ((den * (num / den) + num % den : Nat) : Int) = num := congrArg _ (Nat.div_add_mod num den)
  have hlt : num % den < den := Nat.mod_lt num hden
  dsimp only [roundHalfEven]
  generalize num / den = q at *
  generalize num % den = r at *
  push_cast at hdiv
  split_ifs with hlow hhigh heven
  · exact ⟨by linarith, by linarith, fun ht => by exfalso; rcases ht with ht | ht <;> linarith⟩
  · push_cast
    exact ⟨by linarith, by linarith, fun ht => by exfalso; rcases ht with ht | ht <;> linarith⟩
  · exact ⟨by linarith, by linarith, fun _ => by omega⟩
  · push_cast
    exact ⟨by linarith, by linarith, fun _ => by omega⟩

/-- A lower bound that is met by the fraction is met by its rounding. -/
theorem le_of_nearestEven {num r : Int} {den : Nat} (h : nearestEven num den r) (hden : 0 < den) (t : Int)
    (ht : t * den ≤ num) : t ≤ r := by
  obtain ⟨-, hhi, -⟩ := h
  by_contra hr
  have hd : (0 : Int) < den := by exact_mod_cast hden
  have := mul_le_mul_of_nonneg_right (show r + 1 ≤ t by omega) hd.le
  linarith

theorem nearestEven_le {num r : Int} {den : Nat} (h : nearestEven num den r) (hden : 0 < den) (t : Int)
    (ht : num ≤ t * den) : r ≤ t := by
  obtain ⟨hlo, -, -⟩ := h
  by_contra hr
  have hd : (0 : Int) < den := by exact_mod_cast hden
  have := mul_le_mul_of_nonneg_right (show t + 1 ≤ r by omega) hd.le
  linarith

/-- The half below an even integer rounds up to it. -/
theorem le_of_nearestEven_half {num r : Int} {den : Nat} (h : nearestEven num den r) (hden : 0 < den) (t : Int)
    (heven : t % 2 = 0) (ht : (2 * t - 1) * den ≤ 2 * num) : t ≤ r := by
  obtain ⟨-, hhi, htie⟩ := h
  by_contra hr
  have hd : (0 : Int) < den := by exact_mod_cast hden
  rcases eq_or_lt_of_le (show r + 1 ≤ t by omega) with rfl | hlt
  · have := htie (.inr (by linarith))
    omega
  · have := mul_le_mul_of_nonneg_right (show r + 2 ≤ t by omega) hd.le
    linarith

theorem nearestEven_lt_of_half {num r : Int} {den : Nat} (h : nearestEven num den r) (hden : 0 < den) (t : Int)
    (ht : 2 * num < (2 * t - 1) * den) : r < t := by
  obtain ⟨hlo, -, -⟩ := h
  by_contra hr
  have hd : (0 : Int) < den := by exact_mod_cast hden
  have := mul_le_mul_of_nonneg_right (show t ≤ r by omega) hd.le
  linarith

/-! ## Binary32 patterns and their values (00_scope R14) -/

theorem f32_exponent (x : F32) : (x.extractLsb' 23 8).toNat = x.toNat / 2 ^ 23 % 2 ^ 8 := by
  rw [BitVec.extractLsb'_toNat, Nat.shiftRight_eq_div_pow]

theorem f32_fraction (x : F32) : (x.extractLsb' 0 23).toNat = x.toNat % 2 ^ 23 := by
  rw [BitVec.extractLsb'_toNat, Nat.shiftRight_zero]

theorem f32_sign (x : F32) : x.getLsbD 31 = (x.toNat / 2 ^ 31 == 1) := by
  have := x.isLt
  rw [BitVec.getLsbD, Nat.testBit_eq_decide_div_mod_eq, Nat.mod_eq_of_lt (by omega)]
  rfl

theorem f32Finite_iff (x : F32) : f32Finite x ↔ x.toNat / 2 ^ 23 % 2 ^ 8 ≠ 255 := by
  rw [← f32_exponent]
  exact not_congr (BitVec.toNat_inj (y := 255#8)).symm

/-- The class of a finite pattern holds the value that the interchange format gives it. -/
theorem classOfF32_of_finite (x : F32) (h : f32Finite x) : ∃ neg mant exp,
    classOfF32 x = .finite neg mant exp ∧ -149 ≤ exp ∧
      f32Units x = signed neg (mant * 2 ^ (exp + 149).toNat) := by
  rw [f32Finite_iff] at h
  have hunits : f32Units x = signed (x.toNat / 2 ^ 31 == 1)
      (if x.toNat / 2 ^ 23 % 2 ^ 8 = 0 then x.toNat % 2 ^ 23
        else (2 ^ 23 + x.toNat % 2 ^ 23) * 2 ^ (x.toNat / 2 ^ 23 % 2 ^ 8 - 1)) := by
    simp only [f32Units, f32_exponent, f32_fraction, f32_sign, signed]
  rw [hunits, classOfF32]
  simp only [h, if_false]
  generalize x.toNat / 2 ^ 23 % 2 ^ 8 = e
  split
  · exact ⟨_, _, _, rfl, by omega, by simp⟩
  · refine ⟨_, _, _, rfl, by omega, ?_⟩
    rw [show ((e : Int) - 150 + 149).toNat = e - 1 by omega, Nat.add_comm]

theorem classOfF32_of_not_finite (x : F32) (h : ¬ f32Finite x) :
    classOfF32 x = .nan ∨ ∃ neg, classOfF32 x = .inf neg := by
  rw [f32Finite_iff, not_not] at h
  simp only [classOfF32, h, if_true]
  split
  · exact .inr ⟨_, rfl⟩
  · exact .inl rfl

/-- The finite pattern of sign `neg`, exponent step `k` and significand `m`, with the carry of a significand that
rounding took to 2^24. -/
theorem f32Units_of_bits (neg : Bool) (k m : Nat) (hk : k = 0 ∨ 2 ^ 23 ≤ m) (hm : m ≤ 2 ^ 24)
    (hb : k * 2 ^ 23 + m < 255 * 2 ^ 23) :
    let x : F32 := BitVec.ofNat 32 ((if neg then 2 ^ 31 else 0) + (k * 2 ^ 23 + m))
    f32Finite x ∧ f32Units x = signed neg (m * 2 ^ k) := by
  intro x
  have hx : x.toNat = (if neg then 2 ^ 31 else 0) + (k * 2 ^ 23 + m) := by
    rw [BitVec.toNat_ofNat, Nat.mod_eq_of_lt]
    split <;> omega
  have hsign : (x.toNat / 2 ^ 31 == 1) = neg := by
    rw [hx]
    cases neg <;> simp <;> omega
  have hexp : x.toNat / 2 ^ 23 % 2 ^ 8 = k + m / 2 ^ 23 := by
    rw [hx]
    split <;> omega
  have hfrac : x.toNat % 2 ^ 23 = m % 2 ^ 23 := by
    rw [hx]
    split <;> omega
  refine ⟨(f32Finite_iff x).2 (by omega), ?_⟩
  simp only [f32Units, f32_exponent, f32_fraction, f32_sign, hsign, hexp, hfrac]
  suffices h : (if k + m / 2 ^ 23 = 0 then m % 2 ^ 23
      else (2 ^ 23 + m % 2 ^ 23) * 2 ^ (k + m / 2 ^ 23 - 1)) = m * 2 ^ k by rw [h, signed]
  rcases Nat.lt_or_ge m (2 ^ 23) with hlt | hge
  · obtain rfl : k = 0 := by omega
    rw [if_pos (by omega), Nat.mod_eq_of_lt hlt, Nat.pow_zero, Nat.mul_one]
  rw [if_neg (by omega)]
  rcases Nat.lt_or_ge m (2 ^ 24) with hlt | hge'
  · rw [show k + m / 2 ^ 23 - 1 = k by omega, show 2 ^ 23 + m % 2 ^ 23 = m by omega]
  · obtain rfl : m = 2 ^ 24 := by omega
    rw [show k + 2 ^ 24 / 2 ^ 23 - 1 = k + 1 by omega, Nat.pow_succ]
    ring

/-! ## The rounding of a fraction to binary32 (00_scope R14) -/

theorem scaleByPow2_snd_pos (num den : Nat) (k : Int) (hden : 0 < den) : 0 < (scaleByPow2 num den k).2 := by
  rw [scaleByPow2]
  split
  · exact hden
  · exact Nat.mul_pos hden (by positivity)

/-- Scaling multiplies the fraction by the power of two, stated without division. -/
theorem scaleByPow2_ratio (num den : Nat) (k : Int) :
    ((scaleByPow2 num den k).1 : ℚ) * den = num * 2 ^ k * (scaleByPow2 num den k).2 := by
  rw [scaleByPow2]
  split
  case isTrue h =>
    lift k to Nat using h
    simp
  case isFalse h =>
    obtain ⟨n, rfl⟩ : ∃ n : Nat, k = -(n : Int) := ⟨(-k).toNat, by omega⟩
    simp only [neg_neg, Int.toNat_natCast, Nat.cast_mul, Nat.cast_pow, Nat.cast_ofNat, zpow_neg, zpow_natCast]
    field_simp

/-- The exponent of the last place is 23 below that of the leading bit of the fraction, or the subnormals' one. -/
theorem f32Quantum_eq_max (num den : Nat) (hnum : 0 < num) (hden : 0 < den) : ∃ lead : Int,
    f32Quantum num den = max (lead - 23) (-149) ∧
      (2 : ℚ) ^ lead * den ≤ num ∧ (num : ℚ) < 2 ^ (lead + 1) * den := by
  have hn : (2 : ℚ) ^ num.log2 ≤ num := by exact_mod_cast Nat.log2_self_le hnum.ne'
  have hn' : (num : ℚ) < 2 ^ num.log2 * 2 := by exact_mod_cast Nat.lt_log2_self
  have hd : (2 : ℚ) ^ den.log2 ≤ den := by exact_mod_cast Nat.log2_self_le hden.ne'
  have hd' : (den : ℚ) < 2 ^ den.log2 * 2 := by exact_mod_cast Nat.lt_log2_self
  simp only [f32Quantum]
  set e : Int := (num.log2 : Int) - den.log2 with he
  have hE : (2 : ℚ) ^ e * 2 ^ den.log2 = 2 ^ num.log2 := by
    rw [← zpow_natCast, ← zpow_natCast, ← zpow_add₀ (by norm_num), he, sub_add_cancel]
  have hEpos : (0 : ℚ) < 2 ^ e := by positivity
  have hratio := scaleByPow2_ratio num den (-e)
  have hpos : (0 : ℚ) < (scaleByPow2 num den (-e)).2 := by exact_mod_cast scaleByPow2_snd_pos num den (-e) hden
  rw [zpow_neg] at hratio
  have hlt : (scaleByPow2 num den (-e)).1 < (scaleByPow2 num den (-e)).2 ↔ (num : ℚ) < 2 ^ e * den := by
    have hcross : (num : ℚ) * (scaleByPow2 num den (-e)).2 = 2 ^ e * den * (scaleByPow2 num den (-e)).1 := by
      field_simp at hratio
      linarith
    rw [← Nat.cast_lt (α := ℚ), ← mul_lt_mul_iff_left₀ (b := (num : ℚ)) hpos, hcross]
    exact (mul_lt_mul_iff_right₀ (by positivity)).symm
  split
  case isTrue h =>
    rw [hlt] at h
    refine ⟨e - 1, rfl, ?_, by rwa [sub_add_cancel]⟩
    rw [zpow_sub_one₀ (by norm_num)]
    nlinarith
  case isFalse h =>
    rw [hlt, not_lt] at h
    refine ⟨e, rfl, h, ?_⟩
    rw [zpow_add_one₀ (by norm_num)]
    nlinarith

theorem two_pow_eq_zpow_mul (j : Nat) (l : Int) (h : (j : Int) = l + 149) : (2 : ℚ) ^ j = 2 ^ l * 2 ^ 149 := by
  rw [← zpow_natCast, h, zpow_add₀ (by norm_num)]
  norm_cast

/-- The exponent of the last place of the fraction in units of 2^-149, the least one that leaves 24 bits. -/
theorem f32Quantum_spec (num den : Nat) (hnum : 0 < num) (hden : 0 < den) : ∃ k : Nat,
    f32Quantum num den = (k : Int) - 149 ∧ (k = 0 ∨ 2 ^ (23 + k) * den ≤ num * 2 ^ 149) ∧
      num * 2 ^ 149 < 2 ^ (24 + k) * den := by
  obtain ⟨lead, hq, hlo, hhi⟩ := f32Quantum_eq_max num den hnum hden
  obtain ⟨k, hk⟩ : ∃ k : Nat, max (lead - 23) (-149) = (k : Int) - 149 :=
    ⟨(max (lead - 23) (-149) + 149).toNat, by omega⟩
  refine ⟨k, hq.trans hk, ?_, ?_⟩
  · rcases Nat.eq_zero_or_pos k with h0 | hpos
    · exact .inl h0
    · right
      have := mul_le_mul_of_nonneg_right hlo (show (0 : ℚ) ≤ 2 ^ 149 by positivity)
      suffices h : (2 : ℚ) ^ (23 + k) * den ≤ num * 2 ^ 149 by exact_mod_cast h
      rw [two_pow_eq_zpow_mul (23 + k) lead (by omega)]
      linarith
  · suffices h : (num : ℚ) * 2 ^ 149 < 2 ^ (24 + k) * den by exact_mod_cast h
    have hmono : (2 : ℚ) ^ (lead + 1) * 2 ^ 149 ≤ 2 ^ (24 + k) := by
      rw [two_pow_eq_zpow_mul (24 + k) (24 + k - 149) (by push_cast; omega)]
      exact mul_le_mul_of_nonneg_right (zpow_le_zpow_right₀ (by norm_num) (by omega)) (by positivity)
    calc (num : ℚ) * 2 ^ 149 < 2 ^ (lead + 1) * den * 2 ^ 149 := mul_lt_mul_of_pos_right hhi (by positivity)
      _ = 2 ^ (lead + 1) * 2 ^ 149 * den := by ring
      _ ≤ 2 ^ (24 + k) * den := mul_le_mul_of_nonneg_right hmono (by positivity)

/-- The significand that the model rounds is the fraction in units of 2^(k-149). -/
theorem roundHalfEven_scaled_nearestEven (num den k : Nat) (q : Int) (hden : 0 < den) (hq : q = (k : Int) - 149) :
    nearestEven ((num : Int) * 2 ^ 149) (2 ^ k * den)
      (roundHalfEven (scaleByPow2 num den (-q)).1 (scaleByPow2 num den (-q)).2 : Nat) := by
  have hpos := scaleByPow2_snd_pos num den (-q) hden
  refine nearestEven_of_ratio _ _ _ _ _ hpos (by positivity) ?_ (nearestEven_roundHalfEven _ _ hpos)
  have hratio := scaleByPow2_ratio num den (-q)
  have hpow : (2 : ℚ) ^ (-q) * 2 ^ k = 2 ^ 149 := by
    rw [hq, ← zpow_natCast, ← zpow_add₀ (by norm_num), show -((k : Int) - 149) + k = 149 by ring]
    norm_cast
  suffices h : ((scaleByPow2 num den (-q)).1 : ℚ) * (2 ^ k * den) = num * 2 ^ 149 * (scaleByPow2 num den (-q)).2 by
    exact_mod_cast h
  rw [← hpow]
  linear_combination 2 ^ k * hratio

/-- The significand of a rounded fraction fills 23 bits above the least step, and 24 bits hold it up to the carry. -/
theorem f32_significand_bounds (num den k m : Nat) (hden : 0 < den)
    (hk : k = 0 ∨ 2 ^ (23 + k) * den ≤ num * 2 ^ 149) (hub : num * 2 ^ 149 < 2 ^ (24 + k) * den)
    (hm : nearestEven ((num : Int) * 2 ^ 149) (2 ^ k * den) m) : (k = 0 ∨ 2 ^ 23 ≤ m) ∧ m ≤ 2 ^ 24 := by
  have hstep : 0 < 2 ^ k * den := by positivity
  rw [Nat.pow_add, Nat.mul_assoc] at hk hub
  constructor
  · refine hk.imp_right fun h => ?_
    have := le_of_nearestEven hm hstep (2 ^ 23 : Nat) (by exact_mod_cast h)
    exact_mod_cast this
  · have := nearestEven_le hm hstep (2 ^ 24 : Nat) (by exact_mod_cast hub.le)
    exact_mod_cast this

/-- The pattern of a rounded fraction runs past the finite ones exactly on overflow; at the last step, 2^253 units, the
half below 2^24 decides. -/
theorem f32_overflow_iff (num den k m : Nat) (hden : 0 < den)
    (hk : k = 0 ∨ 2 ^ (23 + k) * den ≤ num * 2 ^ 149) (hub : num * 2 ^ 149 < 2 ^ (24 + k) * den)
    (hm : nearestEven ((num : Int) * 2 ^ 149) (2 ^ k * den) m) :
    (2 ^ 128 - 2 ^ 103) * den ≤ num ↔ 255 * 2 ^ 23 ≤ k * 2 ^ 23 + m := by
  obtain ⟨hfull, hfits⟩ := f32_significand_bounds num den k m hden hk hub hm
  have hstep : 0 < 2 ^ k * den := by positivity
  have hunits : (2 ^ 128 - 2 ^ 103) * den ≤ num ↔ (2 ^ 25 - 1) * (2 ^ 252 * den) ≤ num * 2 ^ 149 := by
    rw [← mul_le_mul_iff_left₀ (show 0 < 2 ^ 149 by positivity),
      show 2 ^ 128 - 2 ^ 103 = (2 ^ 25 - 1) * 2 ^ 103 by norm_num,
      show (2 ^ 25 - 1) * 2 ^ 103 * den * 2 ^ 149 = (2 ^ 25 - 1) * (2 ^ 252 * den) by ring]
  have hlast : 2 ^ 253 * den = 2 * (2 ^ 252 * den) := by ring
  have hlow (h : k ≤ 252) : 2 ^ (24 + k) * den ≤ 2 ^ 24 * (2 ^ 252 * den) := by
    rw [Nat.pow_add, Nat.mul_assoc]
    exact Nat.mul_le_mul_left _ (Nat.mul_le_mul_right den (Nat.pow_le_pow_right Nat.two_pos h))
  have hhigh (h : 254 ≤ k) : 2 ^ 24 * (2 * (2 ^ 252 * den)) ≤ 2 ^ (23 + k) * den := by
    rw [← hlast, show 23 + k = 24 + (k - 1) by omega, Nat.pow_add, Nat.mul_assoc]
    exact Nat.mul_le_mul_left _ (Nat.mul_le_mul_right den (Nat.pow_le_pow_right Nat.two_pos (by omega)))
  have hpos : 0 < 2 ^ 252 * den := by positivity
  rw [hunits]
  have hm' : nearestEven ((num * 2 ^ 149 : Nat) : Int) (2 ^ k * den) m := by exact_mod_cast hm
  obtain ⟨t, ht⟩ : ∃ t, 2 ^ 252 * den = t := ⟨_, rfl⟩
  obtain ⟨n, hn⟩ : ∃ n, num * 2 ^ 149 = n := ⟨_, rfl⟩
  rw [ht] at hlast hlow hhigh hpos
  rw [hn] at hk hub hm'
  rw [ht, hn]
  clear hunits hm
  rcases lt_trichotomy k 253 with hlt | rfl | hgt
  · have := hlow (by omega)
    omega
  · rw [hlast] at hm'
    have hcarry := le_of_nearestEven_half hm' (by omega) (2 ^ 24) (by norm_num)
    have hless := nearestEven_lt_of_half hm' (by omega) (2 ^ 24)
    omega
  · have := hhigh (by omega)
    omega

/-- The model's rounding of a fraction of a sign and a magnitude is the nearest binary32 value. -/
theorem f32OfRat_nearest (neg : Bool) (num den : Nat) (hden : 0 < den) :
    f32Nearest (signed neg num) den (f32OfRat neg num den) := by
  rcases Nat.eq_zero_or_pos num with rfl | hnum
  · have hbits := f32Units_of_bits neg 0 0 (.inl rfl) (by omega) (by omega)
    simp only [f32Nearest, f32OfRat, natAbs_signed, if_true]
    rw [if_neg (by omega)]
    refine ⟨hbits.1, 0, 0, .inl rfl, by simpa using hden, ⟨by simp, by simp, by simp⟩, ?_⟩
    simpa using hbits.2
  · obtain ⟨k, hq, hlo, hub⟩ := f32Quantum_spec num den hnum hden
    have hm := roundHalfEven_scaled_nearestEven num den k _ hden hq
    simp only [f32Nearest, f32OfRat, natAbs_signed, hnum.ne', if_false, signed_neg_iff neg num hnum, hq]
    rw [hq] at hm
    generalize roundHalfEven _ _ = m at hm ⊢
    obtain ⟨hfull, hfits⟩ := f32_significand_bounds num den k m hden hlo hub hm
    have hover := f32_overflow_iff num den k m hden hlo hub hm
    rw [show ((k : Int) - 149 + 149).toNat = k by omega]
    split
    case isTrue h =>
      rw [show min (k * 2 ^ 23 + m) 0x7F800000 = 0x7F800000 from Nat.min_eq_right (hover.1 h)]
      cases neg <;> rfl
    case isFalse h =>
      have hlt := not_le.1 (mt hover.2 h)
      rw [Nat.min_eq_left (by omega)]
      obtain ⟨hfin, hunits⟩ := f32Units_of_bits neg k m hfull hfits hlt
      exact ⟨hfin, m, k, hlo, hub, hm, hunits⟩

/-- The nearest binary32 value depends on the fraction alone, not on the terms it is written in. -/
theorem f32Nearest_of_ratio (a c : Int) (b d : Nat) (x : F32) (hb : 0 < b) (hd : 0 < d) (h : a * d = c * b)
    (hx : f32Nearest a b x) : f32Nearest c d x := by
  have habs : a.natAbs * d = c.natAbs * b := by simpa [Int.natAbs_mul] using congrArg Int.natAbs h
  have hle (s t : Nat) : s * b ≤ a.natAbs * t ↔ s * d ≤ c.natAbs * t := by
    calc s * b ≤ a.natAbs * t ↔ s * b * d ≤ a.natAbs * t * d := (mul_le_mul_iff_left₀ hd).symm
      _ ↔ s * d * b ≤ c.natAbs * t * b := by
        rw [Nat.mul_right_comm s b d, Nat.mul_right_comm _ t d, habs, Nat.mul_right_comm _ b t]
      _ ↔ s * d ≤ c.natAbs * t := mul_le_mul_iff_left₀ hb
  have hsign : a < 0 ↔ c < 0 := by
    rw [← mul_lt_mul_iff_left₀ (show (0 : Int) < d by exact_mod_cast hd), h, zero_mul]
    have hb' : (0 : Int) < b := by exact_mod_cast hb
    exact ⟨fun hc => neg_of_mul_neg_left hc hb'.le, fun hc => mul_neg_of_neg_of_pos hc hb'⟩
  have hover := hle (2 ^ 128 - 2 ^ 103) 1
  simp only [Nat.mul_one] at hover
  unfold f32Nearest at hx ⊢
  simp only [hsign, hover] at hx
  by_cases hinf : (2 ^ 128 - 2 ^ 103) * d ≤ c.natAbs
  · rwa [if_pos hinf] at hx ⊢
  · rw [if_neg hinf] at hx ⊢
    obtain ⟨hfin, m, k, hk, hub, hm, hval⟩ := hx
    refine ⟨hfin, m, k, hk.imp_right (hle _ _).1, ?_, ?_, hval⟩
    · exact not_le.1 (mt (hle _ _).2 (not_le.2 hub))
    · refine nearestEven_of_ratio _ _ _ _ _ (by positivity) (by positivity) ?_ hm
      have : (a.natAbs : Int) * d = c.natAbs * b := by exact_mod_cast habs
      rw [Nat.cast_mul, Nat.cast_mul]
      linear_combination 2 ^ 149 * ((2 ^ k : Nat) : Int) * this

/-! ## The operations on binary32 (00_scope R14) -/

theorem f32OfInt_nearest (x : Int) : f32Nearest x 1 (f32OfInt x) := by
  have := f32OfRat_nearest (decide (x < 0)) x.natAbs 1 Nat.one_pos
  rwa [signed_of_int] at this

/-- A scaled fraction rounds to the value nearest to any fraction `a / b` that is equal to it. -/
theorem f32OfScaled_nearest (neg : Bool) (mant den : Nat) (exp : Int) (a : Int) (b : Nat) (hden : 0 < den)
    (hb : 0 < b) (h : (a : ℚ) * den = signed neg mant * 2 ^ exp * b) :
    f32Nearest a b (f32OfScaled neg mant den exp) := by
  have hpos := scaleByPow2_snd_pos mant den exp hden
  refine f32Nearest_of_ratio _ _ _ _ _ hpos hb ?_ (f32OfRat_nearest neg _ _ hpos)
  have hratio := scaleByPow2_ratio mant den exp
  have hsigned (n : Nat) : (signed neg n : ℚ) = signed neg 1 * n := by
    rw [← Int.cast_natCast n, ← Int.cast_mul, signed_mul_natCast, Nat.one_mul]
  suffices h' : (signed neg (scaleByPow2 mant den exp).1 : ℚ) * b = a * (scaleByPow2 mant den exp).2 by
    exact_mod_cast h'
  have hd : (den : ℚ) ≠ 0 := by exact_mod_cast hden.ne'
  rw [hsigned] at h ⊢
  refine mul_right_cancel₀ hd ?_
  linear_combination (signed neg 1 : ℚ) * b * hratio - (scaleByPow2 mant den exp).2 * h

/-- The value in units of a finite pattern as a rational, from the fields of its class. -/
theorem signed_units_eq (neg : Bool) (mant : Nat) (exp : Int) (hexp : -149 ≤ exp) :
    ((signed neg (mant * 2 ^ (exp + 149).toNat) : Int) : ℚ) = signed neg mant * 2 ^ exp * 2 ^ 149 := by
  have hscale := two_pow_eq_zpow_mul (exp + 149).toNat exp (by omega)
  rw [← signed_mul_natCast]
  push_cast
  rw [hscale, mul_assoc]

theorem f32Mul_nearest (x y : F32) (hx : f32Finite x) (hy : f32Finite y) :
    f32Nearest (f32Units x * f32Units y) (2 ^ 298) (f32Mul x y) := by
  obtain ⟨na, ma, ea, hcx, hea, hux⟩ := classOfF32_of_finite x hx
  obtain ⟨nb, mb, eb, hcy, heb, huy⟩ := classOfF32_of_finite y hy
  simp only [f32Mul, hcx, hcy]
  refine f32OfScaled_nearest _ _ _ _ _ _ Nat.one_pos (Nat.two_pow_pos 298) ?_
  have hunit : ((2 ^ 298 : Nat) : ℚ) = 2 ^ 149 * 2 ^ 149 := by rw [Nat.cast_pow, ← pow_add]; rfl
  rw [← signed_mul_signed, hux, huy, Int.cast_mul, Int.cast_mul, signed_units_eq na ma ea hea,
    signed_units_eq nb mb eb heb, zpow_add₀ (by norm_num), hunit]
  ring

theorem classOfF32_of_pos (x : F32) (hx : f32Finite x) (hpos : 0 < f32Units x) : ∃ mant exp,
    classOfF32 x = .finite false mant exp ∧ 0 < mant ∧ -149 ≤ exp ∧
      f32Units x = signed false (mant * 2 ^ (exp + 149).toNat) := by
  obtain ⟨neg, mant, exp, hc, hexp, hu⟩ := classOfF32_of_finite x hx
  have hmant : mant ≠ 0 := by
    rintro rfl
    simp [hu] at hpos
  cases neg with
  | false => exact ⟨mant, exp, hc, Nat.pos_of_ne_zero hmant, hexp, hu⟩
  | true => exact absurd hpos (by rw [hu, not_lt]; simp [signed])

theorem f32Div_nearest (x y : F32) (hx : f32Finite x) (hy : f32Finite y) (hpos : 0 < f32Units y) :
    f32Nearest (f32Units x) (f32Units y).natAbs (f32Div x y) := by
  obtain ⟨na, ma, ea, hcx, hea, hux⟩ := classOfF32_of_finite x hx
  obtain ⟨mb, eb, hcy, hmb, heb, huy⟩ := classOfF32_of_pos y hy hpos
  simp only [f32Div, hcx, hcy, hmb.ne', if_false, Bool.xor_false]
  refine f32OfScaled_nearest _ _ _ _ _ _ hmb (by omega) ?_
  have habs : (((f32Units y).natAbs : Nat) : ℚ) = ((f32Units y : Int) : ℚ) := by
    rw [← Int.cast_natCast, Int.natAbs_of_nonneg hpos.le]
  have heb0 : (2 : ℚ) ^ eb ≠ 0 := by positivity
  have hmb_cast : ((signed false mb : Int) : ℚ) = mb := Int.cast_natCast mb
  rw [habs, hux, huy, signed_units_eq na ma ea hea, signed_units_eq false mb eb heb,
    zpow_sub₀ (by norm_num), hmb_cast]
  field_simp

theorem f32Div_zero_left (y : F32) (hy : f32Finite y) (hpos : 0 < f32Units y) : f32Div 0 y = 0 := by
  obtain ⟨mb, eb, hcy, hmb, -, -⟩ := classOfF32_of_pos y hy hpos
  have hc0 : classOfF32 0 = .finite false 0 (-149) := by decide
  have hscaled : (scaleByPow2 0 mb (-149 - eb)).1 = 0 := by
    rw [scaleByPow2]
    split <;> simp
  simp only [f32Div, hc0, hcy, hmb.ne', if_false, f32OfScaled, f32OfRat, hscaled, if_true]
  rfl

theorem f32Round_nearestEven (x : F32) (hx : f32Finite x) :
    ∃ r : Int, nearestEven (f32Units x) (2 ^ 149) r ∧ f32Round x = BitVec.ofInt 64 r := by
  obtain ⟨neg, mant, exp, hc, hexp, hu⟩ := classOfF32_of_finite x hx
  have hpos := scaleByPow2_snd_pos mant 1 exp Nat.one_pos
  have hround := nearestEven_roundHalfEven (scaleByPow2 mant 1 exp).1 _ hpos
  refine ⟨signed neg (roundHalfEven (scaleByPow2 mant 1 exp).1 (scaleByPow2 mant 1 exp).2), ?_, ?_⟩
  · rw [hu]
    refine nearestEven_signed _ _ _ _ (nearestEven_of_ratio _ _ _ _ _ hpos (by positivity) ?_ hround)
    have hratio := scaleByPow2_ratio mant 1 exp
    suffices h : ((scaleByPow2 mant 1 exp).1 : ℚ) * 2 ^ 149 =
        mant * 2 ^ (exp + 149).toNat * (scaleByPow2 mant 1 exp).2 by exact_mod_cast h
    rw [two_pow_eq_zpow_mul (exp + 149).toNat exp (by omega)]
    linear_combination 2 ^ 149 * hratio
  · simp only [f32Round, hc, signed]

theorem f32Round_of_not_finite (x : F32) (hx : ¬ f32Finite x) : f32Round x = 0 := by
  rcases classOfF32_of_not_finite x hx with hc | ⟨neg, hc⟩ <;> simp only [f32Round, hc]

theorem f32Mul_not_finite (x y : F32) (hx : ¬ f32Finite x) (hy : f32Finite y) : ¬ f32Finite (f32Mul x y) := by
  obtain ⟨nb, mb, eb, hcy, -, -⟩ := classOfF32_of_finite y hy
  rcases classOfF32_of_not_finite x hx with hc | ⟨na, hc⟩
  · simp only [f32Mul, hc, hcy]
    decide
  · simp only [f32Mul, hc, hcy]
    split
    · decide
    · split <;> decide

/-! ## Predictions and averages (30_encoding R176, 42_delta_encoder R269) -/

theorem f32OfInt_zero : f32OfInt 0 = 0 := by decide

/-- An integer below 2^64 rounds to a finite value. -/
theorem f32OfInt_finite (n : Int) (hn : n.natAbs < 2 ^ 64) : f32Finite (f32OfInt n) := by
  have h := f32OfInt_nearest n
  rw [f32Nearest, if_neg (by omega)] at h
  exact h.1

/-- The rounding of an integer to binary32 stays within a factor of 2 of it. -/
theorem f32OfInt_units_bounds (n : Int) (hn : n.natAbs < 2 ^ 64) :
    n.natAbs * 2 ^ 149 ≤ 2 * (f32Units (f32OfInt n)).natAbs ∧
      2 * (f32Units (f32OfInt n)).natAbs ≤ 3 * (n.natAbs * 2 ^ 149) := by
  rcases eq_or_ne n 0 with rfl | hn0
  · rw [f32OfInt_zero]
    decide
  have h := f32OfInt_nearest n
  rw [f32Nearest, if_neg (by omega)] at h
  obtain ⟨-, m, k, hk, -, ⟨hlo, hhi, -⟩, hval⟩ := h
  have hunits : (f32Units (f32OfInt n)).natAbs = m * 2 ^ k := by
    rw [hval]
    split <;> simp only [Int.natAbs_neg, Int.natAbs_natCast]
  have hstep : 2 ^ k ≤ n.natAbs * 2 ^ 149 := by
    rcases hk with rfl | hk
    · omega
    · exact (Nat.pow_le_pow_right Nat.two_pos (Nat.le_add_left k 23)).trans (by simpa using hk)
  rw [hunits]
  rw [Nat.mul_one] at hlo hhi
  zify at hstep ⊢
  push_cast at hlo hhi
  constructor <;> linarith

theorem f32OfInt_units_pos (n : Int) (hpos : 0 < n) (hn : n.natAbs < 2 ^ 64) : 0 < f32Units (f32OfInt n) := by
  have h := f32OfInt_nearest n
  have hb := (f32OfInt_units_bounds n hn).1
  rw [f32Nearest, if_neg (by omega)] at h
  obtain ⟨-, m, k, -, -, -, hval⟩ := h
  rw [if_neg (by omega)] at hval
  omega

theorem pred_isPrediction (avg : F32) (i : Nat) (hi : i < 4096) : isPrediction avg i (pred avg i) := by
  have hfin : f32Finite (f32OfInt i) := f32OfInt_finite i (by omega)
  refine ⟨fun hinf => f32Round_of_not_finite _ (f32Mul_not_finite _ _ hinf hfin), fun havg => ?_⟩
  exact ⟨f32OfInt i, f32Mul avg (f32OfInt i), f32OfInt_nearest i, f32Mul_nearest _ _ havg hfin,
    f32Round_of_not_finite _, f32Round_nearestEven _⟩

theorem natAbs_toInt_lt (w : Word) : w.toInt.natAbs < 2 ^ 64 := by
  have := w.isLt
  rw [BitVec.toInt_eq_toNat_cond]
  split <;> omega

theorem monoAvg_of_one (first last : Word) : monoAvg first last 1 = 0 := if_pos rfl

theorem monoAvg_of_ne_one (first last : Word) (c : Nat) (hc : c ≠ 1) :
    monoAvg first last c = f32Div (f32OfInt (last - first).toInt) (f32OfInt ((c : Int) - 1)) := if_neg hc

theorem monoAvg_self (v : Word) (c : Nat) (hc : 1 ≤ c) (hc' : c ≤ 4096) : monoAvg v v c = 0 := by
  rcases eq_or_ne c 1 with rfl | h1
  · exact monoAvg_of_one v v
  · rw [monoAvg_of_ne_one v v c h1, BitVec.sub_self, BitVec.toInt_zero, f32OfInt_zero]
    exact f32Div_zero_left _ (f32OfInt_finite _ (by omega)) (f32OfInt_units_pos _ (by omega) (by omega))

theorem monoAvg_nearest (first last : Word) (c : Nat) (hc : 2 ≤ c) (hc' : c ≤ 4096) :
    f32Nearest (f32Units (f32OfInt (last - first).toInt)) (f32Units (f32OfInt ((c : Int) - 1))).natAbs
      (monoAvg first last c) := by
  rw [monoAvg_of_ne_one first last c (by omega)]
  exact f32Div_nearest _ _ (f32OfInt_finite _ (natAbs_toInt_lt _)) (f32OfInt_finite _ (by omega))
    (f32OfInt_units_pos _ (by omega) (by omega))

/-- The dividend is at most 3/2 of 2^64 and the divisor at least 1/2, so the quotient does not overflow. -/
theorem monoAvg_finite (first last : Word) (c : Nat) (hc : 1 ≤ c) (hc' : c ≤ 4096) :
    f32Finite (monoAvg first last c) := by
  rcases eq_or_lt_of_le hc with rfl | hc2
  · rw [monoAvg_of_one]
    decide
  · have h := monoAvg_nearest first last c hc2 hc'
    have hdiff := natAbs_toInt_lt (last - first)
    have hnum := (f32OfInt_units_bounds _ hdiff).2
    have hden := (f32OfInt_units_bounds ((c : Int) - 1) (by omega)).1
    rw [f32Nearest, if_neg (by omega)] at h
    exact h.1

theorem monoAvg_isBlockAverage (first last : Word) (c : Nat) (hc : 1 ≤ c) (hc' : c ≤ 4096) :
    isBlockAverage first last c (monoAvg first last c) := by
  constructor
  · rintro (rfl | rfl)
    · exact monoAvg_of_one first last
    · exact monoAvg_self first c hc hc'
  · exact fun hc2 => ⟨_, _, f32OfInt_nearest _, f32OfInt_nearest _, monoAvg_nearest first last c hc2 hc'⟩

/-- Settles O33: one lemma for each of the codes, the varint's reading and bytes, the prediction and the average. -/
theorem deltaCodesInvert : Obligations.DeltaCodesInvert :=
  ⟨fun n => ⟨unzz_zz n, zz_unzz n, zz_toNat_of_nonneg n, zz_toNat_of_neg n⟩,
    fun m v p fin hm hf => ⟨streamBvl_bvl m v p fin hm hf, bvlGroups_length_pos 8 _, bvlGroups_length_le 8 _⟩,
    fun v j hj => bvlGroups_getD 8 v.toNat j v.isLt hj,
    pred_isPrediction,
    fun first last c hc hc' => ⟨monoAvg_finite first last c hc hc', monoAvg_isBlockAverage first last c hc hc'⟩⟩

end Sys2Proof.Machine
end

section
/-! PROOFS. What a command can change, said once: the units the commands belong to, the frame of each unit's effect, and
the three ways a command ends (60_exceptions R531, R535). Every statement about what a command leaves alone cites
`exec_cases`. -/

namespace Sys2Proof.Machine

/-! ## Result registers (10_state R41) -/

theorem resReg_of_one {r : Results} {a : Word} {k : Nat} (hk : k ≠ 0) : resReg { r with r0 := a } k = resReg r k := by
  simp [resReg, hk]

theorem resReg_of_two {r : Results} {a b : Word} {k : Nat} (hk : 2 ≤ k) :
    resReg { r with r0 := a, r1 := b } k = resReg r k := by
  simp [resReg, show k ≠ 0 by omega, show k ≠ 1 by omega]

theorem resReg_of_three {r : Results} {a b c : Word} {k : Nat} (hk : 3 ≤ k) :
    resReg { r with r0 := a, r1 := b, r2 := c } k = resReg r k := by
  simp [resReg, show k ≠ 0 by omega, show k ≠ 1 by omega, show k ≠ 2 by omega]

theorem resReg_of_second {r : Results} {a : Word} {k : Nat} (hk : k ≠ 1) :
    resReg { r with r1 := a } k = resReg r k := by
  simp [resReg, hk]

/-! ## The units of the commands -/

/-- The unit a command works on (30_encoding R144): the commands with no context, one unit for each context, and
`UNIT_RESET`, which works on every context. -/
inductive CommandUnit where
  | noContext | deltaEncoder | deltaDecoder | growableBuffer | growableWriter | pagedArray | efEncoder | efDecoder
  | everyContext

/-- The unit of each command (30_encoding R144). -/
def unitOf : Instr → CommandUnit
  | .nop | .fsSelect _ | .bpGeom _ _ | .bpDecLL _ _ | .bpDecBL _ _ | .bpEncLL _ _ | .bpEncLB _ _ => .noContext
  | .unitReset => .everyContext
  | .deInit | .deInitMono | .deAdd | .deFinish => .deltaEncoder
  | .ddInit | .ddInitMono | .ddNext | .ddSkip => .deltaDecoder
  | .gbInit | .gbInitMono | .gbAdd | .gbGet | .gbIterReset | .gbIterNext => .growableBuffer
  | .gwInit _ | .gwGet | .gwSet | .gwResize => .growableWriter
  | .pgInit _ | .pgGet | .pgSet | .pgResize | .pgGrow | .pgPageBpv => .pagedArray
  | .efeInit | .efeEncode | .efeFinish => .efEncoder
  | .efdInit | .efdNext | .efdAdvance | .efdPrev | .efdBack | .efdToBefore | .efdToAfter | .efdCurrent => .efDecoder

/-- What the effect of a command of each unit leaves alone: all but the fields listed. -/
def EffectFrame (k : CommandUnit) (s u : State) : Prop :=
  match k with
  | .noContext => u = { s with res := u.res, mem := u.mem, fresh := u.fresh }
  | .deltaEncoder => u = { s with res := u.res, mem := u.mem, outPtr := u.outPtr, de := u.de }
  | .deltaDecoder => u = { s with res := u.res, inPtr := u.inPtr, dd := u.dd }
  | .growableBuffer => u = { s with res := u.res, gb := u.gb }
  | .growableWriter => u = { s with res := u.res, gw := u.gw }
  | .pagedArray => u = { s with res := u.res, pg := u.pg }
  | .efEncoder => u = { s with res := u.res, mem := u.mem, fresh := u.fresh, efe := u.efe }
  | .efDecoder => u = { s with res := u.res, fresh := u.fresh, efd := u.efd }
  | .everyContext => u = s.resetUnits s.args.a0

/-- The effect `u` of the command `i` leaves the result registers alone that its row of R144 does not name. -/
def ResultFrame (i : Instr) (s u : State) : Prop :=
  ∀ k, k < 4 → writesRes i k = false → resReg u.res k = resReg s.res k

/-- A command whose row names no result register leaves them all alone. -/
theorem ResultFrame.of_res_eq {i : Instr} {s u : State} (h : u.res = s.res) : ResultFrame i s u :=
  fun _ _ _ => by rw [h]

/-- The frame of the result registers from what the effect writes. -/
theorem ResultFrame.of_eq {i : Instr} {s u : State} {r : Results} (h : u.res = r)
    (hr : ∀ k, writesRes i k = false → resReg r k = resReg s.res k) : ResultFrame i s u :=
  fun k _ hk => h ▸ hr k hk

theorem ResultFrame.of_one {i : Instr} {s u : State} {a : Word} (h : u.res = { s.res with r0 := a })
    (hi : writesRes i 0 = true) : ResultFrame i s u :=
  .of_eq h fun k hk => resReg_of_one fun h0 => by simp [← h0, hk] at hi

theorem ResultFrame.of_two {i : Instr} {s u : State} {a b : Word} (h : u.res = { s.res with r0 := a, r1 := b })
    (h0 : writesRes i 0 = true) (h1 : writesRes i 1 = true) : ResultFrame i s u :=
  .of_eq h fun k hk => resReg_of_two <| not_lt.1 fun hlt => by
    obtain rfl | rfl := Nat.le_one_iff_eq_zero_or_eq_one.1 (Nat.le_of_lt_succ hlt)
    · simp [h0] at hk
    · simp [h1] at hk

theorem ResultFrame.of_three {i : Instr} {s u : State} {a b c : Word}
    (h : u.res = { s.res with r0 := a, r1 := b, r2 := c }) (hi : ∀ k, k < 3 → writesRes i k = true) :
    ResultFrame i s u :=
  .of_eq h fun k hk => resReg_of_three <| not_lt.1 fun h3 => by simp [hi k h3] at hk

theorem ResultFrame.of_second {i : Instr} {s u : State} {a : Word} (h : u.res = { s.res with r1 := a })
    (hi : writesRes i 1 = true) : ResultFrame i s u :=
  .of_eq h fun k hk => resReg_of_second fun h1 => by simp [← h1, hk] at hi

theorem ResultFrame.of_all {i : Instr} {s u : State} (hi : ∀ k, writesRes i k = true) : ResultFrame i s u :=
  fun k _ hk => by simp [hi k] at hk

/-- The three ways a command ends (60_exceptions R531, R535): without error and with its effect, rejected with its
completion alone, or with a fatal error of the input stream. -/
def CommandEnds (i : Instr) (s t : State) : Prop :=
  (∃ u, EffectFrame (unitOf i) s u ∧ ResultFrame i s u ∧ t = u.complete) ∨
  (∃ e v, t = s.completeErr e v) ∨
  (unitOf i = .deltaDecoder ∧ ∃ e v, t = s.poison.completeErr e v)

theorem CommandEnds.of_conclude {i : Instr} {s t : State} {c : Check} {f : Unit → State}
    (h : s.conclude c f = .next t) (hf : EffectFrame (unitOf i) s (f ())) (hr : ResultFrame i s (f ())) :
    CommandEnds i s t := by
  obtain ⟨-, rfl⟩ | ⟨e, -, rfl⟩ := conclude_cases s t c f h
  · exact .inl ⟨_, hf, hr, rfl⟩
  · exact .inr (.inl ⟨_, _, rfl⟩)

theorem CommandEnds.of_concludeStream {i : Instr} {s t : State} {c : Check} {f : Unit → Except Err State}
    (h : s.concludeStream c f = .next t) (hi : unitOf i = .deltaDecoder)
    (hf : ∀ u, f () = .ok u → EffectFrame (unitOf i) s u ∧ ResultFrame i s u) : CommandEnds i s t := by
  obtain ⟨e, -, rfl⟩ | ⟨-, e, -, rfl⟩ | ⟨-, u, hu, rfl⟩ := concludeStream_cases s t c f h
  · exact .inr (.inl ⟨_, _, rfl⟩)
  · exact .inr (.inr ⟨hi, _, _, rfl⟩)
  · exact .inl ⟨u, (hf u hu).1, (hf u hu).2, rfl⟩

/-! ## Frames of the effects -/

/-- Free ranges change the data memory and the count of draws alone. -/
theorem havocRanges_eq (s : State) (rs : List (Nat × Nat)) :
    s.havocRanges rs = { s with mem := (s.havocRanges rs).mem, fresh := (s.havocRanges rs).fresh } := by
  induction rs generalizing s with
  | nil => rfl
  | cons r t ih => exact ih (s.havoc r.1 r.2)

theorem settleRegions_eq (s : State) (y : EfLayout) :
    s.settleRegions y = { s with mem := (s.settleRegions y).mem, fresh := (s.settleRegions y).fresh } := by
  unfold State.settleRegions
  split
  · exact havocRanges_eq s _
  · rfl

theorem overlapResult_eq (s : State) (y : EfLayout) (v : Word) :
    s.overlapResult y v =
      { s with res := { s.res with r0 := (s.overlapResult y v).res.r0 }, fresh := (s.overlapResult y v).fresh } := by
  unfold State.overlapResult
  split <;> rfl

theorem bpDecode_frame (w : Nat) (f : Format) (b : BpArrays) (s : State) :
    EffectFrame .noContext s (bpDecode w f b s) := by
  unfold bpDecode
  split <;> rfl

theorem bpDecode_res (w : Nat) (f : Format) (b : BpArrays) (s : State) : (bpDecode w f b s).res = s.res := by
  unfold bpDecode
  split <;> rfl

theorem bpEncode_frame (w : Nat) (f : Format) (b : BpArrays) (s : State) :
    EffectFrame .noContext s (bpEncode w f b s) := by
  unfold bpEncode
  split <;> rfl

theorem bpEncode_res (w : Nat) (f : Format) (b : BpArrays) (s : State) : (bpEncode w f b s).res = s.res := by
  unfold bpEncode
  split <;> rfl

theorem gbIterStep_frame (s : State) : EffectFrame .growableBuffer s (gbIterStep s) := by
  unfold gbIterStep
  split <;> rfl

theorem gbIterStep_res (s : State) :
    (gbIterStep s).res = { s.res with r0 := (gbIterStep s).res.r0, r1 := (gbIterStep s).res.r1 } := by
  unfold gbIterStep
  split <;> rfl

theorem pgGrowEffect_frame (s : State) : EffectFrame .pagedArray s (pgGrowEffect s) := by
  unfold pgGrowEffect
  split <;> rfl

theorem pgGrowEffect_res (s : State) :
    (pgGrowEffect s).res = { s.res with r0 := (pgGrowEffect s).res.r0 } := by
  unfold pgGrowEffect
  split <;> rfl

theorem efeInitEffect_frame (s : State) : EffectFrame .efEncoder s (efeInitEffect s) := by
  unfold efeInitEffect EffectFrame
  dsimp only
  rw [settleRegions_eq]
  rfl

theorem efeEncodeEffect_frame (s : State) : EffectFrame .efEncoder s (efeEncodeEffect s) := by
  unfold efeEncodeEffect EffectFrame
  dsimp only
  rw [overlapResult_eq, settleRegions_eq]

theorem efeEncodeEffect_res (s : State) :
    (efeEncodeEffect s).res = { s.res with r0 := (efeEncodeEffect s).res.r0 } := by
  unfold efeEncodeEffect
  dsimp only
  rw [overlapResult_eq, settleRegions_eq]

theorem efeFinishEffect_frame (s : State) : EffectFrame .efEncoder s (efeFinishEffect s) := by
  unfold efeFinishEffect EffectFrame
  dsimp only
  rw [overlapResult_eq, settleRegions_eq]

theorem efeFinishEffect_res (s : State) :
    (efeFinishEffect s).res = { s.res with r0 := (efeFinishEffect s).res.r0 } := by
  unfold efeFinishEffect
  dsimp only
  rw [overlapResult_eq, settleRegions_eq]

theorem efdMove_frame (s : State) (target : List Nat → Int) : EffectFrame .efDecoder s (s.efdMove target) := by
  unfold State.efdMove
  split <;> rfl

theorem efdMove_res (s : State) (target : List Nat → Int) :
    (s.efdMove target).res = { s.res with r0 := (s.efdMove target).res.r0, r1 := (s.efdMove target).res.r1 } := by
  unfold State.efdMove
  split <;> rfl

theorem efdToAfterEffect_frame (s : State) : EffectFrame .efDecoder s (efdToAfterEffect s) := by
  unfold efdToAfterEffect
  split <;> rfl

theorem efdToAfterEffect_res (s : State) : (efdToAfterEffect s).res = s.res := by
  unfold efdToAfterEffect
  split <;> rfl

theorem efdCurrentEffect_frame (s : State) : EffectFrame .efDecoder s (efdCurrentEffect s) := by
  unfold efdCurrentEffect
  split <;> rfl

theorem efdCurrentEffect_res (s : State) :
    (efdCurrentEffect s).res = { s.res with r0 := (efdCurrentEffect s).res.r0, r1 := (efdCurrentEffect s).res.r1 } := by
  unfold efdCurrentEffect
  split <;> rfl

theorem ddNextEffect_ok {s u : State} (h : ddNextEffect s = .ok u) : ∃ d p, ddFetch s = .ok (d, p) ∧
    u = (({ s with inPtr := u64 p, dd := { d with off := d.off + 1, ord := d.ord + 1 } }).setRes0
      (d.buf.getD d.off.toNat 0)).setRes1 (d.ord + 1) := by
  unfold ddNextEffect at h
  split at h
  · cases h
  · next d p hd =>
    cases h
    exact ⟨d, p, hd, rfl⟩

/-- What a skip of the delta decoder does when the stream does not fail it (43 R307). -/
theorem ddSkipEffect_ok {s u : State} (h : ddSkipEffect s = .ok u) :
    (s.args.a0 = 0 ∧ u = s.setRes1 s.dd.ord) ∨
    (s.args.a0 ≠ 0 ∧ ∃ d p, ddSkipTo s.dd s.args.a0.toNat s.mem s.inEnd.toNat s.inPtr.toNat = .ok (d, p) ∧
      u = ({ s with inPtr := u64 p, dd := d }).setRes1 d.ord) := by
  unfold ddSkipEffect at h
  split at h
  · next h0 =>
    cases h
    exact .inl ⟨h0, rfl⟩
  · next h0 =>
    split at h
    · cases h
    · next d p hd =>
      cases h
      exact .inr ⟨h0, d, p, hd, rfl⟩

/-- Every way a command can end, by the arms of `exec` (60_exceptions R531, R535). -/
theorem exec_cases (i : Instr) (s t : State) (h : exec i s = .next t) : CommandEnds i s t := by
  cases i
  case nop | unitReset | deInit | deInitMono | ddInit | ddInitMono | gbInit | gbInitMono | gwInit | gwResize | pgInit
    | pgResize | efdToBefore =>
    simp only [exec, execNop, execUnitReset, execDeInit, execDeInitMono, execDdInit, execDdInitMono, execGbInit,
      execGbInitMono, execGwInit, execGwResize, execPgInit, execPgResize, execEfdToBefore] at h
    exact .of_conclude h rfl (.of_res_eq rfl)
  case bpDecLL | bpDecBL =>
    simp only [exec, execBpDecLL, execBpDecBL] at h
    exact .of_conclude h (bpDecode_frame _ _ _ s) (.of_res_eq (bpDecode_res _ _ _ s))
  case bpEncLL | bpEncLB =>
    simp only [exec, execBpEncLL, execBpEncLB] at h
    exact .of_conclude h (bpEncode_frame _ _ _ s) (.of_res_eq (bpEncode_res _ _ _ s))
  case bpGeom =>
    simp only [exec, execBpGeom] at h
    exact .of_conclude h rfl (.of_all fun _ => rfl)
  case fsSelect =>
    simp only [exec, execFsSelect] at h
    exact .of_conclude h rfl (.of_three rfl fun k hk => decide_eq_true (Nat.le_of_lt_succ hk))
  case deAdd | deFinish | gbAdd | gbGet | gbIterReset | gwGet | gwSet | pgGet | pgSet | pgPageBpv | efdInit =>
    simp only [exec, execDeAdd, execDeFinish, execGbAdd, execGbGet, execGbIterReset, execGwGet, execGwSet, execPgGet,
      execPgSet, execPgPageBpv, execEfdInit] at h
    exact .of_conclude h rfl (.of_one rfl rfl)
  case gbIterNext =>
    simp only [exec, execGbIterNext] at h
    exact .of_conclude h (gbIterStep_frame s) (.of_two (gbIterStep_res s) rfl rfl)
  case pgGrow =>
    simp only [exec, execPgGrow] at h
    exact .of_conclude h (pgGrowEffect_frame s) (.of_one (pgGrowEffect_res s) rfl)
  case efeInit =>
    simp only [exec, execEfeInit] at h
    exact .of_conclude h (efeInitEffect_frame s) (.of_all fun _ => rfl)
  case efeEncode =>
    simp only [exec, execEfeEncode] at h
    exact .of_conclude h (efeEncodeEffect_frame s) (.of_one (efeEncodeEffect_res s) rfl)
  case efeFinish =>
    simp only [exec, execEfeFinish] at h
    exact .of_conclude h (efeFinishEffect_frame s) (.of_one (efeFinishEffect_res s) rfl)
  case efdNext | efdAdvance | efdPrev | efdBack =>
    simp only [exec, execEfdNext, execEfdAdvance, execEfdPrev, execEfdBack] at h
    exact .of_conclude h (efdMove_frame s _) (.of_two (efdMove_res s _) rfl rfl)
  case efdToAfter =>
    simp only [exec, execEfdToAfter] at h
    exact .of_conclude h (efdToAfterEffect_frame s) (.of_res_eq (efdToAfterEffect_res s))
  case efdCurrent =>
    simp only [exec, execEfdCurrent] at h
    exact .of_conclude h (efdCurrentEffect_frame s) (.of_two (efdCurrentEffect_res s) rfl rfl)
  case ddNext =>
    simp only [exec, execDdNext] at h
    refine .of_concludeStream h rfl fun u hu => ?_
    obtain ⟨d, p, -, rfl⟩ := ddNextEffect_ok hu
    exact ⟨rfl, .of_two rfl rfl rfl⟩
  case ddSkip =>
    simp only [exec, execDdSkip] at h
    refine .of_concludeStream h rfl fun u hu => ?_
    obtain ⟨-, rfl⟩ | ⟨-, d, p, -, rfl⟩ := ddSkipEffect_ok hu
    · exact ⟨rfl, .of_second rfl rfl⟩
    · exact ⟨rfl, .of_second rfl rfl⟩

/-! ## What no command changes -/

/-- Every effect of a command is confined to the results, the stream pointers, the contexts, the data memory and the
count of draws (10_state R40, 60_exceptions R535). -/
theorem EffectFrame.confined {k : CommandUnit} {s u : State} (h : EffectFrame k s u) :
    u = { s with
      res := u.res, inPtr := u.inPtr, outPtr := u.outPtr, de := u.de, dd := u.dd, gb := u.gb, gw := u.gw, pg := u.pg
      efe := u.efe, efd := u.efd, mem := u.mem, fresh := u.fresh } := by
  cases k <;> rw [h]
  rfl

theorem EffectFrame.status {k : CommandUnit} {s u : State} (h : EffectFrame k s u) : u.status = s.status := by
  rw [h.confined]

/-- What a completion makes of the status, the pending interrupts and ERRINFO (60_exceptions R535). -/
def Completes (s t : State) : Prop :=
  (t.status = statusComplete s.status ∧ t.irq = irqComplete s.irq ∧ t.errInfo = s.errInfo) ∨
  ∃ e, t.status = statusCompleteErr s.status e ∧ t.irq = irqCompleteErr s.irq

theorem exec_completes {i : Instr} {s t : State} (h : exec i s = .next t) : Completes s t := by
  obtain ⟨u, hu, -, rfl⟩ | ⟨e, v, rfl⟩ | ⟨-, e, v, rfl⟩ := exec_cases i s t h
  · rw [hu.confined]
    exact .inl ⟨rfl, rfl, rfl⟩
  · exact .inr ⟨e, rfl, rfl⟩
  · exact .inr ⟨e, rfl, rfl⟩

theorem exec_cfg {i : Instr} {s t : State} (h : exec i s = .next t) : t.cfg = s.cfg := by
  obtain ⟨u, hu, -, rfl⟩ | ⟨e, v, rfl⟩ | ⟨-, e, v, rfl⟩ := exec_cases i s t h
  · rw [State.complete_cfg, hu.confined]
  · rfl
  · rfl

theorem exec_args {i : Instr} {s t : State} (h : exec i s = .next t) : t.args = s.args := by
  obtain ⟨u, hu, -, rfl⟩ | ⟨e, v, rfl⟩ | ⟨-, e, v, rfl⟩ := exec_cases i s t h
  · rw [State.complete_args, hu.confined]
  · rfl
  · rfl

/-- A command changes only the result registers its row of R144 names, and none when it ends with an error
(10_state R41). -/
theorem exec_results {i : Instr} {s t : State} (h : exec i s = .next t) :
    (s.status.err = false → t.status.err = true → t.res = s.res) ∧ ResultFrame i s t := by
  obtain ⟨u, hu, hres, rfl⟩ | ⟨e, v, rfl⟩ | ⟨-, e, v, rfl⟩ := exec_cases i s t h
  · refine ⟨fun hs ht => ?_, hres⟩
    rw [State.complete_status, statusComplete_err, hu.confined] at ht
    exact absurd (hs.symm.trans ht) Bool.false_ne_true
  · exact ⟨fun _ _ => rfl, .of_res_eq rfl⟩
  · exact ⟨fun _ _ => rfl, .of_res_eq rfl⟩

/-! ## A context changes by the commands of its unit, or returns to its reset value -/

theorem EffectFrame.contexts {k : CommandUnit} {s u : State} (h : EffectFrame k s u) :
    (k = .deltaEncoder ∨ u.de = s.de ∨ u.de = {}) ∧ (k = .deltaDecoder ∨ u.dd = s.dd ∨ u.dd = {}) ∧
    (k = .growableBuffer ∨ u.gb = s.gb ∨ u.gb = {}) ∧ (k = .growableWriter ∨ u.gw = s.gw ∨ u.gw = {}) ∧
    (k = .pagedArray ∨ u.pg = s.pg ∨ u.pg = {}) := by
  cases k <;> rw [h]
  case everyContext =>
    exact ⟨.inr (ite_eq_or_eq _ _ _).symm, .inr (ite_eq_or_eq _ _ _).symm, .inr (ite_eq_or_eq _ _ _).symm,
      .inr (ite_eq_or_eq _ _ _).symm, .inr (ite_eq_or_eq _ _ _).symm⟩
  all_goals simp

theorem exec_contexts {i : Instr} {s t : State} (h : exec i s = .next t) :
    (unitOf i = .deltaEncoder ∨ t.de = s.de ∨ t.de = {}) ∧ (unitOf i = .deltaDecoder ∨ t.dd = s.dd ∨ t.dd = {}) ∧
    (unitOf i = .growableBuffer ∨ t.gb = s.gb ∨ t.gb = {}) ∧
    (unitOf i = .growableWriter ∨ t.gw = s.gw ∨ t.gw = {}) ∧ (unitOf i = .pagedArray ∨ t.pg = s.pg ∨ t.pg = {}) := by
  obtain ⟨u, hu, -, rfl⟩ | ⟨e, v, rfl⟩ | ⟨hi, e, v, rfl⟩ := exec_cases i s t h
  · exact hu.contexts
  · simp
  · simp [hi]

end Sys2Proof.Machine
end

section
/-! PROOFS. What an access of the host, a turn of the engine and a step can do, said once (10_state R30, R32, R45,
70_reset R590): the statements about the registers and the invariants are read off these. -/

namespace Sys2Proof.Machine

/-! ## States that agree on the contexts -/

/-- The device's parameters and the unit contexts of `s` and `t` agree (10_state R47 to R53). -/
structure SameContexts (s t : State) : Prop where
  cfg : t.cfg = s.cfg
  de : t.de = s.de
  dd : t.dd = s.dd
  gb : t.gb = s.gb
  gw : t.gw = s.gw
  pg : t.pg = s.pg
  efe : t.efe = s.efe
  efd : t.efd = s.efd

/-- What an access of the host short of a reset keeps: contexts, results, ERRINFO and the inputs still to come; a
running command keeps running, and without one nothing is drawn and no hazard committed (70_reset R590). -/
structure HostKeeps (s t : State) : Prop extends SameContexts s t where
  res : t.res = s.res
  errInfo : t.errInfo = s.errInfo
  inputs : t.inputs = s.inputs
  running : s.status.busy = true → t.status.busy = true ∧ t.status.err = s.status.err
  idle : s.status.busy = false → t.fresh = s.fresh ∧ t.hazard = s.hazard

theorem HostKeeps.refl (s : State) : HostKeeps s s :=
  ⟨⟨rfl, rfl, rfl, rfl, rfl, rfl, rfl, rfl⟩, rfl, rfl, rfl, fun h => ⟨h, rfl⟩, fun _ => ⟨rfl, rfl⟩⟩

/-! ## Stores to the window -/

/-- Everything a store of `v` to a register can do (10_state R33 to R46). -/
inductive RegisterEffect (s : State) (v : Word) : WinReg → State → Prop
  | ignored (r : WinReg) : RegisterEffect s v r s
  | dropped (hb : s.status.busy = true) : RegisterEffect s v .cmd { s with status := statusOverrun s.status }
  | accepted (hb : s.status.busy = false) : RegisterEffect s v .cmd (s.accept v)
  | reset (hv : v.getLsbD 63 = true) : RegisterEffect s v .ctrl s.doReset
  | ctrl : RegisterEffect s v .ctrl { s with ctrl := ctrlWrite v }
  | statusClr : RegisterEffect s v .statusClr { s with status := statusClear s.status v }
  | irqStatus : RegisterEffect s v .irqStatus { s with irq := irqClear s.irq v }
  | operand (r : WinReg) (args : Args) (inPtr inEnd outPtr outEnd : Word) :
      RegisterEffect s v r { s with args := args, inPtr := inPtr, inEnd := inEnd, outPtr := outPtr, outEnd := outEnd }
  | disturbed (r : WinReg) (hb : s.status.busy = true) : RegisterEffect s v r s.disturbOperands

theorem writeOperand_effect (s : State) (v : Word) (r : WinReg) (args : Args) (inPtr inEnd outPtr outEnd : Word) :
    RegisterEffect s v r (writeOperand s
      { s with args := args, inPtr := inPtr, inEnd := inEnd, outPtr := outPtr, outEnd := outEnd }) := by
  unfold writeOperand
  split
  · next hb => exact .disturbed r hb
  · exact .operand r ..

theorem writeReg_effect (r : WinReg) (v : Word) (s : State) : RegisterEffect s v r (writeReg r v s) := by
  cases r
  case cmd =>
    dsimp only [writeReg]
    split
    · next hb => exact .dropped hb
    · next hb => exact .accepted (Bool.eq_false_iff.2 hb)
  case ctrl =>
    dsimp only [writeReg]
    split
    · next hv => exact .reset hv
    · exact .ctrl
  case statusClr => exact .statusClr
  case irqStatus => exact .irqStatus
  case arg0 | arg1 | arg2 | arg3 | arg4 | arg5 | arg6 | arg7 | inPtr | inEnd | outPtr | outEnd =>
    exact writeOperand_effect s v _ _ _ _ _ _
  all_goals exact .ignored _

/-! ## Accesses of the host -/

/-- Everything an access of the host can do (10_state R32, 20_memory R100): a load, an ignored store included; a store
to a register; a store to the data memory. -/
inductive HostEffect (s : State) : HostAccess → State → Prop
  | noStore (a : HostAccess) (d : Word) (n : Nat) (hn : s.status.busy = false → n = s.fresh) :
      HostEffect s a { s with hostData := d, fresh := n }
  | register (addr v : Word) (r : WinReg) (hr : winReg (windowOffset s.cfg addr) = some r) :
      HostEffect s (.regStore 8 addr v) (writeReg r v s)
  | word (x : Nat) (v : Word) : HostEffect s (.memStoreWord x v) (hostStore s x 8 v.toNat)
  | byte (x : Nat) (v : Byte) : HostEffect s (.memStoreByte x v) (hostStore s x 1 v.toNat)

/-- A window access that answers is a naturally aligned 64-bit one (10_state R32). -/
theorem windowAccess_next {s t reserved : State} {width : Nat} {addr : Word} {act : WinReg → State}
    (h : windowAccess s width addr reserved act = .next t) : width = 8 ∧
      (t = reserved ∨ ∃ r, winReg (windowOffset s.cfg addr) = some r ∧ t = act r) := by
  unfold windowAccess at h
  dsimp only at h
  split at h
  · cases h
  · split at h
    · cases h
    · next hw =>
      refine ⟨not_not.1 (not_or.1 hw).1, ?_⟩
      split at h
      · exact .inl (by cases h; rfl)
      · next r hr => exact .inr ⟨r, hr, by cases h; rfl⟩

theorem dataAccess_next {s t u : State} {a n : Nat} (h : dataAccess s a n u = .next t) : t = u := by
  unfold dataAccess at h
  split at h
  · cases h
  · cases h
    rfl

theorem readReg_effect (a : HostAccess) (r : WinReg) (s : State) : HostEffect s a (readReg r s) := by
  unfold readReg
  split
  · next hb => exact .noStore a _ _ fun hi => by simp [hi] at hb
  · exact .noStore a _ _ fun _ => rfl

theorem hostLoad_effect (a : HostAccess) (s : State) (x n : Nat) : HostEffect s a (hostLoad s x n) := by
  unfold hostLoad
  split
  · next hb => exact .noStore a _ _ fun hi => by simp [hi] at hb
  · exact .noStore a _ _ fun _ => rfl

theorem hostStep_effect {a : HostAccess} {s t : State} (h : hostStep a s = .next t) : HostEffect s a t := by
  cases a with
  | regLoad w addr =>
    obtain ⟨-, rfl | ⟨r, -, rfl⟩⟩ := windowAccess_next h
    · exact .noStore _ _ _ fun _ => rfl
    · exact readReg_effect _ r s
  | regStore w addr v =>
    obtain ⟨rfl, rfl | ⟨r, hr, rfl⟩⟩ := windowAccess_next h
    · exact .noStore _ _ _ fun _ => rfl
    · exact .register addr v r hr
  | memLoadWord x => exact dataAccess_next h ▸ hostLoad_effect _ s x 8
  | memLoadByte x => exact dataAccess_next h ▸ hostLoad_effect _ s x 1
  | memStoreWord x v => exact dataAccess_next h ▸ .word x v
  | memStoreByte x v => exact dataAccess_next h ▸ .byte x v

/-- A store to the data memory while a command runs may leave free values in the command's ranges (70_reset R590). -/
theorem hostStore_eq (s : State) (a n v : Nat) : ∃ m k hz,
    hostStore s a n v = { s with mem := m, fresh := k, hazard := hz } ∧
    (s.status.busy = false → k = s.fresh ∧ hz = s.hazard) ∧
    sameOutsideRanges s.mem m ((a, n) :: if s.status.busy then runningRanges s else []) := by
  have hstore : ∀ x, (∀ r ∈ (a, n) :: if s.status.busy then runningRanges s else [], x < r.1 ∨ r.1 + r.2 ≤ x) →
      readByte (memWrite s.mem a n v) x = readByte s.mem x :=
    fun x hx => sameOutside_memWrite s.mem a n v x (hx _ (List.mem_cons_self ..))
  unfold hostStore
  dsimp only
  split
  · next hb =>
    rw [Bool.and_eq_true] at hb
    refine ⟨_, _, _, by rw [State.disturbRanges, havocRanges_eq], fun hi => by simp [hi] at hb, fun x hx => ?_⟩
    rw [sameOutside_havocRanges _ _ x fun r hr => ?_]
    · exact hstore x hx
    · exact hx r (List.mem_cons_of_mem _ (by rw [if_pos hb.1]; exact hr))
  · exact ⟨_, _, _, rfl, fun _ => ⟨rfl, rfl⟩, hstore⟩

theorem hostStore_keeps (s : State) (a n v : Nat) : HostKeeps s (hostStore s a n v) := by
  obtain ⟨m, k, hz, h, hidle, -⟩ := hostStore_eq s a n v
  rw [h]
  exact ⟨⟨rfl, rfl, rfl, rfl, rfl, rfl, rfl, rfl⟩, rfl, rfl, rfl, fun hb => ⟨hb, rfl⟩, hidle⟩

/-- A store to a register short of a reset. -/
theorem RegisterEffect.keeps {s t : State} {v : Word} {r : WinReg} (h : RegisterEffect s v r t) :
    (r = .ctrl ∧ v.getLsbD 63 = true ∧ t = s.doReset) ∨ (HostKeeps s t ∧ t.mem = s.mem) := by
  cases h with
  | reset hv => exact .inl ⟨rfl, hv, rfl⟩
  | ignored => exact .inr ⟨.refl s, rfl⟩
  | dropped | ctrl | statusClr | irqStatus | operand =>
    exact .inr ⟨⟨⟨rfl, rfl, rfl, rfl, rfl, rfl, rfl, rfl⟩, rfl, rfl, rfl, fun hb => ⟨hb, rfl⟩,
      fun _ => ⟨rfl, rfl⟩⟩, rfl⟩
  | accepted hi =>
    exact .inr ⟨⟨⟨rfl, rfl, rfl, rfl, rfl, rfl, rfl, rfl⟩, rfl, rfl, rfl, fun hb => by simp [hi] at hb,
      fun _ => ⟨rfl, rfl⟩⟩, rfl⟩
  | disturbed r hb =>
    exact .inr ⟨⟨⟨rfl, rfl, rfl, rfl, rfl, rfl, rfl, rfl⟩, rfl, rfl, rfl, fun hb => ⟨hb, rfl⟩,
      fun hi => by simp [hi] at hb⟩, rfl⟩

theorem winReg_eq_ctrl {off : Nat} (h : winReg off = some .ctrl) : off = 0x020 := by
  unfold winReg at h
  split at h <;> simp_all

theorem winReg_eq_irqStatus {off : Nat} (h : winReg off = some .irqStatus) : off = 0x030 := by
  unfold winReg at h
  split at h <;> simp_all

/-- The platform address of the offset an address has in the window (10_state R32). -/
theorem regBase_add_windowOffset (p : Params) (addr : Word) : p.regBase + u64 (windowOffset p addr) = addr := by
  unfold windowOffset u64
  rw [BitVec.ofNat_toNat, BitVec.setWidth_eq, add_sub_cancel]

/-- The host access `a` is a store to CTRL with bit 63 set (70_reset R582). -/
def isSoftReset (p : Params) (a : HostAccess) : Prop :=
  ∃ v : Word, v.getLsbD 63 = true ∧ a = .regStore 8 (p.regBase + u64 0x020) v

theorem hostStep_keeps {a : HostAccess} {s t : State} (h : hostStep a s = .next t) :
    (isSoftReset s.cfg a ∧ t = s.doReset) ∨ HostKeeps s t := by
  cases hostStep_effect h with
  | noStore a d n hn =>
    exact .inr ⟨⟨rfl, rfl, rfl, rfl, rfl, rfl, rfl, rfl⟩, rfl, rfl, rfl, fun hb => ⟨hb, rfl⟩, fun hi => ⟨hn hi, rfl⟩⟩
  | register addr v r hr =>
    obtain ⟨rfl, hv, ht⟩ | ⟨hk, -⟩ := (writeReg_effect r v s).keeps
    · exact .inl ⟨⟨v, hv, by rw [← winReg_eq_ctrl hr, regBase_add_windowOffset]⟩, ht⟩
    · exact .inr hk
  | word x v => exact .inr (hostStore_keeps s x 8 _)
  | byte x v => exact .inr (hostStore_keeps s x 1 _)

theorem RegisterEffect.irq {s t : State} {v : Word} {r : WinReg} (h : RegisterEffect s v r t) :
    (r = .ctrl ∧ v.getLsbD 63 = true) ∨ t.irq = s.irq ∨ (r = .irqStatus ∧ t.irq = irqClear s.irq v) := by
  cases h with
  | reset hv => exact .inl ⟨rfl, hv⟩
  | irqStatus => exact .inr (.inr ⟨rfl, rfl⟩)
  | ignored | dropped | accepted | ctrl | statusClr | operand | disturbed => exact .inr (.inl rfl)

/-- Short of a reset, an access of the host changes IRQ_STATUS by a store to it alone (10_state R38). -/
theorem hostStep_irq {a : HostAccess} {s t : State} (h : hostStep a s = .next t) :
    isSoftReset s.cfg a ∨ t.irq = s.irq ∨
      ∃ v, a = .regStore 8 (s.cfg.regBase + u64 0x030) v ∧ t.irq = irqClear s.irq v := by
  cases hostStep_effect h with
  | noStore => exact .inr (.inl rfl)
  | register addr v r hr =>
    obtain ⟨rfl, hv⟩ | hirq | ⟨rfl, hirq⟩ := (writeReg_effect r v s).irq
    · exact .inl ⟨v, hv, by rw [← winReg_eq_ctrl hr, regBase_add_windowOffset]⟩
    · exact .inr (.inl hirq)
    · exact .inr (.inr ⟨v, by rw [← winReg_eq_irqStatus hr, regBase_add_windowOffset], hirq⟩)
  | word x v =>
    obtain ⟨m, k, hz, ht, -⟩ := hostStore_eq s x 8 v.toNat
    exact .inr (.inl (by rw [ht]))
  | byte x v =>
    obtain ⟨m, k, hz, ht, -⟩ := hostStore_eq s x 1 v.toNat
    exact .inr (.inl (by rw [ht]))

/-! ## Turns of the engine -/

/-- What the hazards leave at the end of a command concerns the registers the host writes, the results and the data
memory alone (70_reset R590). -/
theorem settleHazards_keeps (s : State) : SameContexts s s.settleHazards ∧ s.settleHazards.status = s.status ∧
    s.settleHazards.irq = s.irq ∧ s.settleHazards.errInfo = s.errInfo := by
  unfold State.settleHazards State.havocResults State.havocOperands
  dsimp only
  split <;> split <;> exact ⟨by constructor <;> simp, by simp⟩

theorem Completes.settleHazards {s t : State} (h : Completes s t) : Completes s t.settleHazards := by
  obtain ⟨-, hstatus, hirq, herr⟩ := settleHazards_keeps t
  rw [Completes, hstatus, hirq, herr]
  exact h

/-- Everything a turn of the engine can do: nothing, or a command's completion and what the hazards leave. -/
theorem engineTurn_next {s t : State} (h : engineTurn s = .next t) :
    (s.status.busy = false ∧ t = s) ∨
    (s.status.busy = true ∧ ∃ u, ((∃ i, exec i s = .next u) ∨ u = illegalCommand s) ∧ t = u.settleHazards) := by
  obtain ⟨hb, hx⟩ | ⟨hb, i, -, hx⟩ | ⟨hb, e, -, hx⟩ := engineTurn_cases s <;> rw [hx] at h
  · cases h
    exact .inl ⟨hb, rfl⟩
  · cases hu : exec i s with
    | next u =>
      rw [hu] at h
      cases h
      exact .inr ⟨hb, u, .inl ⟨i, hu⟩, rfl⟩
    | fault r => rw [hu] at h; cases h
    | refused r => rw [hu] at h; cases h
  · cases h
    exact .inr ⟨hb, _, .inr rfl, rfl⟩

theorem engineTurn_completes {s t : State} (hb : s.status.busy = true) (h : engineTurn s = .next t) :
    Completes s t := by
  obtain ⟨hi, -⟩ | ⟨-, u, ⟨i, hu⟩ | rfl, rfl⟩ := engineTurn_next h
  · exact absurd (hi.symm.trans hb) Bool.false_ne_true
  · exact (exec_completes hu).settleHazards
  · exact Completes.settleHazards (.inr ⟨_, rfl, rfl⟩)

theorem engineTurn_idle {s t : State} (hb : s.status.busy = false) (h : engineTurn s = .next t) : t = s := by
  obtain ⟨-, ht⟩ | ⟨hr, -⟩ := engineTurn_next h
  · exact ht
  · exact absurd (hb.symm.trans hr) Bool.false_ne_true

namespace Completes

variable {s t : State}

theorem busy (h : Completes s t) : t.status.busy = false := by
  obtain ⟨hst, -⟩ | ⟨e, hst, -⟩ := h <;> rw [hst] <;> rfl

theorem doneIrq (h : Completes s t) : t.irq.doneIrq = true := by
  obtain ⟨-, hirq, -⟩ | ⟨e, -, hirq⟩ := h <;> rw [hirq] <;> rfl

/-- A completion with an error sets the pending bit of errors (10_state R38). -/
theorem errIrq (h : Completes s t) (hs : s.status.err = false) (ht : t.status.err = true) : t.irq.errIrq = true := by
  obtain ⟨hst, -⟩ | ⟨e, -, hirq⟩ := h
  · rw [hst, statusComplete_err, hs] at ht
    cases ht
  · rw [hirq]
    rfl

theorem errIrq_kept (h : Completes s t) (hs : s.irq.errIrq = true) : t.irq.errIrq = true := by
  obtain ⟨-, hirq, -⟩ | ⟨e, -, hirq⟩ := h <;> rw [hirq]
  · exact hs
  · rfl

theorem errCodeNumber_ne_zero (e : ErrCode) : errCodeNumber e ≠ 0 := by cases e <;> decide

/-- ERRINFO changes only where a command ends with an error (10_state R39). -/
theorem errInfo (h : Completes s t) :
    t.errInfo = s.errInfo ∨ (t.status.err = true ∧ t.status.errCode ≠ 0) := by
  obtain ⟨-, -, herr⟩ | ⟨e, hst, -⟩ := h
  · exact .inl herr
  · rw [hst]
    exact .inr ⟨rfl, errCodeNumber_ne_zero e⟩

end Completes

/-! ## Steps -/

theorem hostStep_resets_or_keeps {a : HostAccess} {s t : State} (h : hostStep a s = .next t) :
    isSoftReset s.cfg a ∨ (HostKeeps s t ∧ (t.irq = s.irq ∨
      ∃ v, a = .regStore 8 (s.cfg.regBase + u64 0x030) v ∧ t.irq = irqClear s.irq v)) := by
  obtain ⟨hr, -⟩ | hk := hostStep_keeps h
  · exact .inl hr
  · exact (hostStep_irq h).imp_right fun hirq => ⟨hk, hirq⟩

/-- Everything a step can be: a reset, or an access of the host that keeps what `HostKeeps` says (or none), with or
without a completion after it (10_state R30, 60_exceptions R546). -/
theorem step_resets_or_keeps {s t : State} (hbase : s.cfg.regBase.toNat % 8 = 0) (h : step s = .next t) :
    (∃ rest, nextIsReset s rest) ∨
    ∃ rest u, HostKeeps { s with inputs := rest } u ∧
      (u.irq = s.irq ∨ ∃ v, storeArrives s 0x030 v ∧ u.irq = irqClear s.irq v) ∧
      (t = u ∨ (s.status.busy = true ∧ Completes u t)) := by
  obtain ⟨rest, -, hx⟩ | ⟨a, rest, hin, hx⟩ | ⟨a, rest, hin, hx⟩ | ⟨rest, hin, -⟩ := step_cases s
  · refine .inr ⟨rest, _, .refl _, .inl rfl, ?_⟩
    rw [hx] at h
    by_cases hb : s.status.busy = true
    · exact .inr ⟨hb, engineTurn_completes hb h⟩
    · exact .inl (engineTurn_idle (Bool.eq_false_iff.2 hb) h)
  · rw [hx] at h
    obtain ⟨v, hv, rfl⟩ | ⟨hk, hirq⟩ := hostStep_resets_or_keeps h
    · exact .inl ⟨rest, .inr ⟨v, hv, .inl ⟨hbase, hin⟩⟩⟩
    refine .inr ⟨rest, t, hk, hirq.imp_right ?_, .inl rfl⟩
    rintro ⟨v, rfl, hq⟩
    exact ⟨v, ⟨rest, .inl ⟨hbase, hin⟩⟩, hq⟩
  · rw [hx] at h
    obtain ⟨u, hu, ht⟩ : ∃ u, hostStep a { s with inputs := rest } = .next u ∧
        (t = u ∨ (s.status.busy = true ∧ engineTurn u = .next t)) := by
      obtain ⟨-, hu⟩ | ⟨hb, u, hu, ht⟩ := hostAndEngineStep_cases a _ t h
      · exact ⟨t, hu, .inl rfl⟩
      · exact ⟨u, hu, .inr ⟨hb, ht⟩⟩
    obtain ⟨v, hv, rfl⟩ | ⟨hk, hirq⟩ := hostStep_resets_or_keeps hu
    · exact .inl ⟨rest, .inr ⟨v, hv, .inr ⟨hbase, hin⟩⟩⟩
    refine .inr ⟨rest, u, hk, hirq.imp_right ?_, ht.imp_right fun ⟨hb, ht⟩ => ?_⟩
    · rintro ⟨v, rfl, hq⟩
      exact ⟨v, ⟨rest, .inr ⟨hbase, hin⟩⟩, hq⟩
    · exact ⟨hb, engineTurn_completes (hk.running hb).1 ht⟩
  · exact .inl ⟨rest, .inl hin⟩

/-! ## Invariants of the contexts, packaged once -/

/-- A property of the contexts alone that their reset values have and that every command keeps. -/
structure ContextInvariant (P : State → Prop) : Prop where
  congr : ∀ s t, SameContexts s t → P s → P t
  reset : ∀ s, P s → P s.toReset
  exec : ∀ i s t, P s → exec i s = .next t → P t

namespace ContextInvariant

variable {P : State → Prop} {s t : State}

theorem doReset (hP : ContextInvariant P) (hs : P s) : P s.doReset := by
  unfold State.doReset
  split
  · exact hP.reset _ (hP.congr s _ (by constructor <;> simp) hs)
  · exact hP.reset s hs

theorem hostStep (hP : ContextInvariant P) {a : HostAccess} (hs : P s) (h : hostStep a s = .next t) : P t := by
  obtain ⟨-, rfl⟩ | hk := hostStep_keeps h
  · exact hP.doReset hs
  · exact hP.congr s t hk.toSameContexts hs

theorem engineTurn (hP : ContextInvariant P) (hs : P s) (h : engineTurn s = .next t) : P t := by
  obtain ⟨-, rfl⟩ | ⟨-, u, hu, rfl⟩ := engineTurn_next h
  · exact hs
  · refine hP.congr u _ (settleHazards_keeps u).1 ?_
    obtain ⟨i, hu⟩ | rfl := hu
    · exact hP.exec i s u hs hu
    · exact hP.congr s _ ⟨rfl, rfl, rfl, rfl, rfl, rfl, rfl, rfl⟩ hs

theorem step (hP : ContextInvariant P) (hs : P s) (h : step s = .next t) : P t := by
  have hinputs : ∀ rest, P { s with inputs := rest } :=
    fun rest => hP.congr s _ ⟨rfl, rfl, rfl, rfl, rfl, rfl, rfl, rfl⟩ hs
  obtain ⟨rest, -, hx⟩ | ⟨a, rest, -, hx⟩ | ⟨a, rest, -, hx⟩ | ⟨rest, -, hx⟩ := step_cases s <;> rw [hx] at h
  · exact hP.engineTurn (hinputs rest) h
  · exact hP.hostStep (hinputs rest) h
  · obtain ⟨-, hu⟩ | ⟨-, u, hu, ht⟩ := hostAndEngineStep_cases a _ t h
    · exact hP.hostStep (hinputs rest) hu
    · exact hP.engineTurn (hP.hostStep (hinputs rest) hu) ht
  · cases h
    exact hP.doReset (hinputs rest)

end ContextInvariant

end Sys2Proof.Machine
end

section
/-! PROOFS. The delta codec's contexts keep what the spec says of them (10_state R47, R48, 42_delta_encoder R260,
43_delta_decoder R300). -/

namespace Sys2Proof.Machine

/-! ## Block sizes -/

theorem legalBlockSize_bounds {b : Nat} (h : legalBlockSize b) : 64 ≤ b ∧ b ≤ 4096 := h.2

/-- A legal block size divides 2^64, so a counter that wraps keeps its remainder (42 R261). -/
theorem legalBlockSize_dvd {b : Nat} (h : legalBlockSize b) : b ∣ 2 ^ 64 := by
  have hmax := (legalBlockSize_bounds h).2
  obtain ⟨hpow, -⟩ := h
  rw [isPow2, Bool.and_eq_true, beq_iff_eq] at hpow
  rw [← hpow.2] at hmax ⊢
  refine Nat.pow_dvd_pow 2 ?_
  by_contra hlog
  have := Nat.pow_le_pow_right (n := 2) (by omega) (not_le.1 hlog).le
  omega

theorem toNat_add_one_mod {b : Nat} (h : legalBlockSize b) (x : Word) : (x + 1).toNat % b = (x.toNat + 1) % b := by
  rw [BitVec.toNat_add, Nat.mod_mod_of_dvd _ (legalBlockSize_dvd h)]
  rfl

theorem toNat_add_one_of_lt {x : Word} {n : Nat} (h : x.toNat < n) (hn : n < 2 ^ 64) : (x + 1).toNat = x.toNat + 1 := by
  rw [BitVec.toNat_add]
  exact Nat.mod_eq_of_lt (by simp; omega)

@[simp] theorem checkBlockSize_eq_none (b : Word) : checkBlockSize b = none ↔ legalBlockSize b.toNat :=
  require_eq_none _ _ _

/-! ## Delta encoder -/

theorem deInv_of_initialized {d : DeltaEncoder} (h : d.state ≠ .uninit) : DeInv d ↔
    legalBlockSize d.blockSize.toNat ∧ d.buf.length = d.blockSize.toNat ∧ d.pending.toNat < d.blockSize.toNat ∧
    (d.state = .buffering ↔ 0 < d.pending.toNat) ∧
    (d.state ≠ .finished → d.ord.toNat % d.blockSize.toNat = d.pending.toNat) := by
  rw [DeInv, if_neg h]

theorem deInv_uninit : DeInv {} := by
  rw [DeInv, if_pos rfl]

theorem deInv_deInitContext (mono : Bool) {b : Word} (h : legalBlockSize b.toNat) : DeInv (deInitContext mono b) := by
  have hb := legalBlockSize_bounds h
  rw [deInv_of_initialized (by simp [deInitContext])]
  simp only [deInitContext, List.length_replicate]
  exact ⟨h, trivial, by simp; omega, by simp, fun _ => by simp⟩

theorem deInv_deAddContext {d : DeltaEncoder} (v : Word) (hd : DeInv d) (hu : d.state ≠ .uninit)
    (hf : d.state ≠ .finished) : DeInv (deAddContext d v) := by
  obtain ⟨hsize, hbuf, hpend, -, hord⟩ := (deInv_of_initialized hu).1 hd
  have hsmall := legalBlockSize_bounds hsize
  have hnextOrd : (d.ord + 1).toNat % d.blockSize.toNat = (d.pending.toNat + 1) % d.blockSize.toNat := by
    rw [toNat_add_one_mod hsize, Nat.add_mod, hord hf, Nat.mod_eq_of_lt (by omega : 1 < d.blockSize.toNat)]
  unfold deAddContext
  split
  · next hfill =>
    rw [deInv_of_initialized (by simp)]
    exact ⟨hsize, hbuf, by simp; omega, by simp, fun _ => by rw [hnextOrd, hfill, Nat.mod_self]; rfl⟩
  · next hfill =>
    have hnext := toNat_add_one_of_lt hpend d.blockSize.isLt
    rw [deInv_of_initialized (by simp)]
    refine ⟨hsize, by rw [List.length_set, hbuf], ?_, ?_, fun _ => ?_⟩
    · exact hnext ▸ lt_of_le_of_ne hpend hfill
    · rw [hnext]
      simp
    · rw [hnextOrd, hnext]
      exact Nat.mod_eq_of_lt (lt_of_le_of_ne hpend hfill)

theorem deInv_finished {d : DeltaEncoder} (hd : DeInv d) (hu : d.state ≠ .uninit) :
    DeInv { d with pending := 0, state := .finished } := by
  obtain ⟨hsize, hbuf, hpend, -⟩ := (deInv_of_initialized hu).1 hd
  rw [deInv_of_initialized (by simp)]
  exact ⟨hsize, hbuf, by simp; omega, by simp, fun h => absurd rfl h⟩

theorem checkWriter_eq_none (s : State) :
    checkWriter s = none ↔ (s.de.state ≠ .uninit ∧ s.de.state ≠ .finished) ∧ checkOut s = none := by
  simp [checkWriter]

theorem exec_keeps_deInv {i : Instr} {s t : State} (hs : DeInv s.de) (h : exec i s = .next t) : DeInv t.de := by
  obtain hi | hde | hde := (exec_contexts h).1
  · cases i
    case deInit | deInitMono =>
      simp only [exec, execDeInit, execDeInitMono] at h
      obtain ⟨hc, rfl⟩ | ⟨e, -, rfl⟩ := conclude_cases _ _ _ _ h
      · exact deInv_deInitContext _ ((checkBlockSize_eq_none _).1 hc)
      · exact hs
    case deAdd =>
      simp only [exec, execDeAdd] at h
      obtain ⟨hc, rfl⟩ | ⟨e, -, rfl⟩ := conclude_cases _ _ _ _ h
      · obtain ⟨⟨hu, hf⟩, -⟩ := (checkWriter_eq_none s).1 (Option.or_eq_none_iff.1 hc).1
        exact deInv_deAddContext _ hs hu hf
      · exact hs
    case deFinish =>
      simp only [exec, execDeFinish] at h
      obtain ⟨hc, rfl⟩ | ⟨e, -, rfl⟩ := conclude_cases _ _ _ _ h
      · obtain ⟨⟨hu, -⟩, -⟩ := (checkWriter_eq_none s).1 (Option.or_eq_none_iff.1 hc).1
        exact deInv_finished hs hu
      · exact hs
    all_goals cases hi
  · rw [hde]
    exact hs
  · rw [hde]
    exact deInv_uninit

/-! ## Delta decoder -/

/-- While READY the buffer offset and the ordinal agree modulo the block size (43 R300): the two cases of the rule say
this of an offset that is at most the block size. -/
theorem ddInv_of_ready {d : DeltaDecoder} (h : d.state = .ready) : DdInv d ↔
    legalBlockSize d.blockSize.toNat ∧ d.buf.length = d.blockSize.toNat ∧ d.ord.toNat ≤ d.count.toNat ∧
    d.off.toNat ≤ d.blockSize.toNat ∧ d.ord.toNat ≡ d.off.toNat [MOD d.blockSize.toNat] := by
  rw [DdInv, forall_prop_of_true h]
  refine and_congr_right fun _ => and_congr_right fun _ => and_congr_right fun _ => and_congr_right fun hoff => ?_
  unfold Nat.ModEq
  split
  · next he => rw [he, Nat.mod_self]
  · next hne => rw [Nat.mod_eq_of_lt (lt_of_le_of_ne hoff fun he => hne (BitVec.eq_of_toNat_eq he))]

theorem ddInv_of_not_ready {d : DeltaDecoder} (h : d.state ≠ .ready) : DdInv d := fun hr => absurd hr h

theorem ddInv_ddInitContext (mono : Bool) {b : Word} (n : Word) (h : legalBlockSize b.toNat) :
    DdInv (ddInitContext mono b n) :=
  (ddInv_of_ready rfl).2 ⟨h, List.length_replicate .., Nat.zero_le _, le_rfl, by simp [ddInitContext, Nat.ModEq]⟩

theorem length_reconstruct (mono : Bool) (base : Word) (avg : F32) (i : Nat) (rs : List Word) :
    (reconstruct mono base avg i rs).length = rs.length := by
  induction rs generalizing i with
  | nil => rfl
  | cons r t ih => simp [reconstruct, ih]

/-- A block that is read holds the values it was asked for (43 R302). -/
theorem length_refillBlock {mono : Bool} {c fin p p' : Nat} {m : Memory} {vs : List Word}
    (h : refillBlock mono c m fin p = .ok (vs, p')) : vs.length = c := by
  simp only [refillBlock] at h
  repeat' split at h
  all_goals cases h
  simp [length_reconstruct, unpackBytes, splitFields]

theorem ddRefill_ok {d d' : DeltaDecoder} {consumed fin p p' : Nat} {m : Memory}
    (h : ddRefill d consumed m fin p = .ok (d', p')) (hbuf : d.buf.length = d.blockSize.toNat) :
    ∃ buf : List Word, buf.length = d.blockSize.toNat ∧ d' = { d with buf := buf, off := 0 } := by
  unfold ddRefill at h
  split at h
  · cases h
  · next vs q hr =>
    cases h
    refine ⟨_, ?_, rfl⟩
    rw [List.length_append, List.length_drop, hbuf, length_refillBlock hr]
    exact Nat.add_sub_cancel' (Nat.min_le_left ..)

/-- The decoder a `DD_NEXT` returns a value from has one left in its buffer (43 R306). -/
theorem ddFetch_ok {s : State} {d : DeltaDecoder} {p : Nat} (hs : DdInv s.dd) (hr : s.dd.state = .ready)
    (h : ddFetch s = .ok (d, p)) :
    d.state = .ready ∧ DdInv d ∧ d.off.toNat < d.blockSize.toNat ∧ d.ord = s.dd.ord ∧ d.count = s.dd.count := by
  have hinv := (ddInv_of_ready hr).1 hs
  obtain ⟨hsize, hbuf, hord, hoff, hmod⟩ := hinv
  unfold ddFetch at h
  split at h
  · next he =>
    obtain ⟨buf, hbuf, rfl⟩ := ddRefill_ok h hbuf
    have he : s.dd.off = s.dd.blockSize := he
    refine ⟨hr, (ddInv_of_ready (by exact hr)).2 ⟨hsize, hbuf, hord, Nat.zero_le _, ?_⟩, ?_, rfl, rfl⟩
    · rw [he] at hmod
      exact hmod.trans (by simp [Nat.ModEq])
    · have := legalBlockSize_bounds hsize
      simp
      omega
  · next hne =>
    cases h
    exact ⟨hr, hs, lt_of_le_of_ne hoff fun he => hne (BitVec.eq_of_toNat_eq he), rfl, rfl⟩

theorem ddInv_advance {d : DeltaDecoder} (hr : d.state = .ready) (hd : DdInv d)
    (hoff : d.off.toNat < d.blockSize.toNat) (hord : d.ord ≠ d.count) :
    DdInv { d with off := d.off + 1, ord := d.ord + 1 } := by
  obtain ⟨hsize, hbuf, hcount, -, hmod⟩ := (ddInv_of_ready hr).1 hd
  have hlt : d.ord.toNat < d.count.toNat := lt_of_le_of_ne hcount fun he => hord (BitVec.eq_of_toNat_eq he)
  rw [ddInv_of_ready (by exact hr)]
  simp only [toNat_add_one_of_lt hlt d.count.isLt, toNat_add_one_of_lt hoff d.blockSize.isLt]
  exact ⟨hsize, hbuf, hlt, hoff, hmod.add_right 1⟩

/-- A skip of `n` values that the stream does not fail keeps the offset and the ordinal in step (43 R307). -/
theorem ddInv_ddSkipTo {d d' : DeltaDecoder} {n fin p p' : Nat} {m : Memory} (hr : d.state = .ready) (hd : DdInv d)
    (hn : d.ord.toNat + n ≤ d.count.toNat) (h : ddSkipTo d n m fin p = .ok (d', p')) : DdInv d' := by
  obtain ⟨hsize, hbuf, hcount, hoff, hmod⟩ := (ddInv_of_ready hr).1 hd
  have hcount64 := d.count.isLt
  have hsize64 := d.blockSize.isLt
  unfold ddSkipTo at h
  dsimp only at h
  set b := d.blockSize.toNat
  set k := min n (b - d.off.toNat) with hk
  set blocks := (n - k) / b
  set rem := (n - k) % b with hrem
  have hsplit : n - k = blocks * b + rem := by rw [mul_comm]; exact (Nat.div_add_mod _ _).symm
  have hmod1 : d.ord.toNat + k + blocks * b ≡ d.off.toNat + k [MOD b] := by
    simpa [Nat.ModEq] using hmod.add_right k
  split at h
  · cases h
  · split at h
    · cases h
      rw [ddInv_of_ready (by exact hr)]
      simp only [BitVec.toNat_ofNat]
      rw [Nat.mod_eq_of_lt (by omega), Nat.mod_eq_of_lt (by omega)]
      exact ⟨hsize, hbuf, by omega, by omega, hmod1⟩
    · next hrem0 =>
      split at h
      · cases h
      · next d2 p2 hd2 =>
        cases h
        obtain ⟨buf, hbuf2, rfl⟩ := ddRefill_ok hd2 hbuf
        have hbpos := legalBlockSize_bounds hsize
        have hremlt : rem < b := Nat.mod_lt _ (by omega)
        have hfull : d.off.toNat + k = b := by omega
        rw [ddInv_of_ready (by exact hr)]
        simp only [BitVec.toNat_ofNat]
        rw [Nat.mod_eq_of_lt (by omega), Nat.mod_eq_of_lt (by omega)]
        refine ⟨hsize, hbuf2, by omega, hremlt.le, ?_⟩
        rw [hfull] at hmod1
        simpa [Nat.ModEq] using hmod1.add_right rem

theorem checkReader_eq_none (s : State) : checkReader s = none ↔ s.dd.state = .ready := require_eq_none _ _ _

theorem exec_keeps_ddInv {i : Instr} {s t : State} (hs : DdInv s.dd) (h : exec i s = .next t) : DdInv t.dd := by
  obtain hi | hdd | hdd := (exec_contexts h).2.1
  · cases i
    case ddInit | ddInitMono =>
      simp only [exec, execDdInit, execDdInitMono] at h
      obtain ⟨hc, rfl⟩ | ⟨e, -, rfl⟩ := conclude_cases _ _ _ _ h
      · exact ddInv_ddInitContext _ _ ((checkBlockSize_eq_none _).1 hc)
      · exact hs
    case ddNext =>
      simp only [exec, execDdNext] at h
      obtain ⟨e, -, rfl⟩ | ⟨-, e, -, rfl⟩ | ⟨hc, u, hu, rfl⟩ := concludeStream_cases _ _ _ _ h
      · exact hs
      · exact ddInv_of_not_ready (by simp)
      · obtain ⟨⟨hr, hord⟩, -⟩ : (s.dd.state = .ready ∧ s.dd.ord ≠ s.dd.count) ∧ checkIn s = none := by
          simpa [ddNextCheck, checkReader_eq_none] using hc
        obtain ⟨d, p, hd, rfl⟩ := ddNextEffect_ok hu
        obtain ⟨hdr, hdinv, hoff, hordEq, hcountEq⟩ := ddFetch_ok hs hr hd
        exact ddInv_advance hdr hdinv hoff (by rwa [hordEq, hcountEq])
    case ddSkip =>
      simp only [exec, execDdSkip] at h
      obtain ⟨e, -, rfl⟩ | ⟨-, e, -, rfl⟩ | ⟨hc, u, hu, rfl⟩ := concludeStream_cases _ _ _ _ h
      · exact hs
      · exact ddInv_of_not_ready (by simp)
      · obtain ⟨⟨hr, hn⟩, -⟩ : (s.dd.state = .ready ∧ s.dd.ord.toNat + s.args.a0.toNat ≤ s.dd.count.toNat) ∧ _ := by
          simpa [ddSkipCheck, checkReader_eq_none] using hc
        obtain ⟨-, rfl⟩ | ⟨-, d, p, hd, rfl⟩ := ddSkipEffect_ok hu
        · exact hs
        · exact ddInv_ddSkipTo hr hs hn hd
    all_goals cases hi
  · rw [hdd]
    exact hs
  · rw [hdd]
    exact ddInv_of_not_ready (by simp)

theorem deltaInv_contextInvariant : ContextInvariant fun s => DeInv s.de ∧ DdInv s.dd where
  congr _ _ h hs := by rwa [h.de, h.dd]
  reset _ _ := ⟨deInv_uninit, ddInv_of_not_ready (by simp [State.resetOf])⟩
  exec _ _ _ hs h := ⟨exec_keeps_deInv hs.1 h, exec_keeps_ddInv hs.2 h⟩

/-- Settles O57: the delta codec's invariants are kept by each of its commands, hence by every step. -/
theorem stepKeepsDeltaInv : Obligations.StepKeepsDeltaInv :=
  fun _ _ hde hdd h => deltaInv_contextInvariant.step ⟨hde, hdd⟩ h

end Sys2Proof.Machine
end

section
/-! PROOFS. The growable append buffer keeps what the spec says of it (10_state R49, 44_growable_buffer R340, R343,
R346, R348). -/

namespace Sys2Proof.Machine

/-! ## Packed blocks -/

theorem bitlen_le_of_lt {v w : Nat} (h : v < 2 ^ w) : bitlen v ≤ w := by
  unfold bitlen
  split
  · exact Nat.zero_le _
  · next hv => exact (Nat.log2_lt hv).2 h

theorem lt_two_pow_bitlen (v : Nat) : v < 2 ^ bitlen v := by
  unfold bitlen
  split
  · next hv => simp [hv]
  · exact Nat.lt_log2_self

theorem foldl_max_lt {n b : Nat} (xs : List Nat) (hb : b < n) (h : ∀ x ∈ xs, x < n) : xs.foldl max b < n := by
  induction xs generalizing b with
  | nil => exact hb
  | cons x t ih => exact ih (max_lt hb (h x (by simp))) fun y hy => h y (by simp [hy])

/-- Residues are words, so 64 bits hold them (30_encoding R177). -/
theorem residueWidth_le (res : List Word) : residueWidth res ≤ 64 := by
  refine bitlen_le_of_lt (foldl_max_lt _ (by decide) fun x hx => ?_)
  obtain ⟨w, -, rfl⟩ := List.mem_map.1 hx
  exact w.isLt

theorem length_monoResidues (base : Word) (avg : F32) (i : Nat) (vs : List Word) :
    (monoResidues base avg i vs).length = vs.length := by
  induction vs generalizing i with
  | nil => rfl
  | cons v t ih => simp [monoResidues, ih]

/-- What a packed block of `n` values is (10_state R49, 44_growable_buffer R341, R342). -/
def GbBlockOk (n : Nat) (b : GbBlock) : Prop := b.res.length = n ∧ b.bits = residueWidth b.res ∧ b.bits ≤ 64

theorem packPlain_ok (vs : List Word) : GbBlockOk vs.length (packPlain vs) :=
  ⟨List.length_map .., rfl, residueWidth_le _⟩

theorem packMono_ok (vs : List Word) : GbBlockOk vs.length (packMono vs) :=
  ⟨length_monoResidues .., rfl, residueWidth_le _⟩

/-- The add that fills the block packs a whole page (44_growable_buffer R346). -/
theorem gbPack_ok {g : GrowableBuffer} (v : Word) (hpend : g.pend.length = g.pageSize.toNat) (hfill : gbFills g) :
    GbBlockOk g.pageSize.toNat (gbPack g v) := by
  have hlength : (g.pend.take (gbPending g) ++ [v]).length = g.pageSize.toNat := by
    have hfill : gbPending g + 1 = g.pageSize.toNat := hfill
    rw [List.length_append, List.length_take, List.length_singleton, hpend]
    omega
  rw [← hlength]
  unfold gbPack
  dsimp only
  split
  · exact packMono_ok _
  · exact packPlain_ok _

/-! ## Commands -/

theorem gbInv_of_ready {p : Params} {g : GrowableBuffer} (h : g.state = .ready) : GbInv p g ↔
    legalBlockSize g.pageSize.toNat ∧ g.pend.length = g.pageSize.toNat ∧
    (gbNblocks g * g.pageSize.toNat ≤ g.size.toNat ∧
      g.size.toNat < gbNblocks g * g.pageSize.toNat + g.pageSize.toNat) ∧
    (∀ b ∈ g.blk, GbBlockOk g.pageSize.toNat b) ∧
    gbNblocks g ≤ p.gbMaxBlocks ∧ gbUsed g ≤ p.gbStoreWords ∧
    (g.ipos.toNat ≤ g.iend.toNat ∧ g.iend.toNat ≤ g.size.toNat) :=
  forall_prop_of_true h

theorem gbInv_uninit (p : Params) : GbInv p {} := nofun

theorem gbInv_gbInitContext (p : Params) (mono : Bool) {b : Word} (h : legalBlockSize b.toNat) :
    GbInv p (gbInitContext mono b) := by
  have hb := legalBlockSize_bounds h
  refine (gbInv_of_ready rfl).2 ⟨h, List.length_replicate .., ⟨?_, ?_⟩, fun _ => nofun, Nat.zero_le _,
    Nat.zero_le _, le_rfl, le_rfl⟩
  · simp [gbInitContext, gbNblocks]
  · simp [gbInitContext, gbNblocks]
    omega

@[simp] theorem checkGbReady_eq_none (s : State) : checkGbReady s = none ↔ s.gb.state = .ready := require_eq_none _ _ _

theorem checkGbCapacity_eq_none (p : Params) (g : GrowableBuffer) (b : GbBlock) : checkGbCapacity p g b = none ↔
    gbNblocks g < p.gbMaxBlocks ∧ gbUsed g + gbBlockWords g.pageSize.toNat b.bits ≤ p.gbStoreWords := by
  simp [checkGbCapacity]

/-- An add keeps the invariant: the counts cannot wrap where the block slots hold fewer than 2^63 values (R346). -/
theorem gbInv_gbAddContext {p : Params} {g : GrowableBuffer} (v : Word) (hslots : p.gbMaxBlocks < 2 ^ 51)
    (hr : g.state = .ready) (hg : GbInv p g) (hcap : gbFills g → checkGbCapacity p g (gbPack g v) = none) :
    GbInv p (gbAddContext g v) := by
  obtain ⟨hsize, hpend, ⟨hlow, hhigh⟩, hblk, hmax, hused, hpos, hend⟩ := (gbInv_of_ready hr).1 hg
  have hpage := legalBlockSize_bounds hsize
  have hvalues : gbNblocks g * g.pageSize.toNat + g.pageSize.toNat < 2 ^ 64 := by
    have := Nat.mul_le_mul (show gbNblocks g ≤ 2 ^ 51 by omega) hpage.2
    omega
  have hnext : (g.size + 1).toNat = g.size.toNat + 1 := toNat_add_one_of_lt hhigh hvalues
  unfold gbAddContext
  split
  · next hfill =>
    obtain ⟨hslot, hwords⟩ := (checkGbCapacity_eq_none p g _).1 (hcap hfill)
    have hfull : g.size.toNat - gbNblocks g * g.pageSize.toNat + 1 = g.pageSize.toNat := hfill
    have hcount : gbNblocks { g with blk := g.blk ++ [gbPack g v], size := g.size + 1 } = gbNblocks g + 1 := by
      simp [gbNblocks]
    rw [gbInv_of_ready (by exact hr), hcount, hnext]
    refine ⟨hsize, hpend, ⟨?_, ?_⟩, ?_, hslot, ?_, hpos, hend.trans (Nat.le_succ _)⟩
    · rw [Nat.add_mul]
      dsimp only
      omega
    · rw [Nat.add_mul]
      dsimp only
      omega
    · intro b hb
      obtain hb | rfl := by simpa using hb
      · exact hblk b hb
      · exact gbPack_ok v hpend hfill
    · simpa [gbUsed] using hwords
  · next hfill =>
    have hroom : g.size.toNat - gbNblocks g * g.pageSize.toNat + 1 ≠ g.pageSize.toNat := hfill
    rw [gbInv_of_ready (by exact hr), hnext]
    refine ⟨hsize, by rw [List.length_set, hpend], ⟨?_, ?_⟩, hblk, hmax, hused, hpos, hend.trans (Nat.le_succ _)⟩
    · exact hlow.trans (Nat.le_succ _)
    · show g.size.toNat + 1 < gbNblocks g * g.pageSize.toNat + g.pageSize.toNat
      omega

theorem gbInv_gbIterReset {p : Params} {g : GrowableBuffer} (hr : g.state = .ready) (hg : GbInv p g) :
    GbInv p { g with ipos := 0, iend := g.size } := by
  obtain ⟨hsize, hpend, hcount, hblk, hmax, hused, -⟩ := (gbInv_of_ready hr).1 hg
  exact (gbInv_of_ready (by exact hr)).2 ⟨hsize, hpend, hcount, hblk, hmax, hused, Nat.zero_le _, le_rfl⟩

theorem gbInv_gbIterStep {p : Params} {s : State} (hr : s.gb.state = .ready) (hg : GbInv p s.gb) :
    GbInv p (gbIterStep s).gb := by
  obtain ⟨hsize, hpend, hcount, hblk, hmax, hused, -, hend⟩ := (gbInv_of_ready hr).1 hg
  unfold gbIterStep
  split
  · next hlt =>
    have hnext := toNat_add_one_of_lt hlt s.gb.iend.isLt
    exact (gbInv_of_ready (by exact hr)).2 ⟨hsize, hpend, hcount, hblk, hmax, hused, hnext ▸ hlt, hend⟩
  · exact hg

theorem exec_keeps_gbInv {i : Instr} {s t : State} (hslots : s.cfg.gbMaxBlocks < 2 ^ 51) (hs : GbInv s.cfg s.gb)
    (h : exec i s = .next t) : GbInv s.cfg t.gb := by
  obtain hi | hgb | hgb := (exec_contexts h).2.2.1
  · cases i
    case gbInit | gbInitMono =>
      simp only [exec, execGbInit, execGbInitMono] at h
      obtain ⟨hc, rfl⟩ | ⟨e, -, rfl⟩ := conclude_cases _ _ _ _ h
      · exact gbInv_gbInitContext _ _ ((checkBlockSize_eq_none _).1 hc)
      · exact hs
    case gbAdd =>
      simp only [exec, execGbAdd] at h
      obtain ⟨hc, rfl⟩ | ⟨e, -, rfl⟩ := conclude_cases _ _ _ _ h
      · obtain ⟨hr, hcap⟩ := Option.or_eq_none_iff.1 hc
        exact gbInv_gbAddContext _ hslots ((checkGbReady_eq_none s).1 hr) hs fun hfill => by rwa [if_pos hfill] at hcap
      · exact hs
    case gbGet =>
      simp only [exec, execGbGet] at h
      obtain ⟨-, rfl⟩ | ⟨e, -, rfl⟩ := conclude_cases _ _ _ _ h
      · exact hs
      · exact hs
    case gbIterReset =>
      simp only [exec, execGbIterReset] at h
      obtain ⟨hc, rfl⟩ | ⟨e, -, rfl⟩ := conclude_cases _ _ _ _ h
      · exact gbInv_gbIterReset ((checkGbReady_eq_none s).1 hc) hs
      · exact hs
    case gbIterNext =>
      simp only [exec, execGbIterNext] at h
      obtain ⟨hc, rfl⟩ | ⟨e, -, rfl⟩ := conclude_cases _ _ _ _ h
      · exact gbInv_gbIterStep ((checkGbReady_eq_none s).1 hc) hs
      · exact hs
    all_goals cases hi
  · rw [hgb]
    exact hs
  · rw [hgb]
    exact gbInv_uninit _

theorem gbInv_contextInvariant : ContextInvariant fun s => s.cfg.gbMaxBlocks < 2 ^ 51 ∧ GbInv s.cfg s.gb where
  congr _ _ h hs := by rwa [h.cfg, h.gb]
  reset _ hs := ⟨hs.1, gbInv_uninit _⟩
  exec _ _ _ hs h := by
    rw [exec_cfg h]
    exact ⟨hs.1, exec_keeps_gbInv hs.1 hs.2 h⟩

/-- Settles O58: the buffer's invariant is kept by each of its commands, hence by every step. -/
theorem stepKeepsGrowableBufferInv : Obligations.StepKeepsGrowableBufferInv :=
  fun _ _ hslots hgb h => (gbInv_contextInvariant.step ⟨hslots, hgb⟩ h).2

end Sys2Proof.Machine
end

section
/-! PROOFS. The growable writer and the paged array keep what the spec says of them (10_state R50, R51,
45_dynamic_array R380, R381, R390, R391): the growable writer's values are those of a single page. -/

namespace Sys2Proof.Machine

/-! ## Widths (45_dynamic_array R381) -/

theorem le_maxValue_iff (v w : Nat) : v ≤ maxValue w ↔ v < 2 ^ w := by
  have := Nat.two_pow_pos w
  unfold maxValue mask
  omega

theorem maxValue_mono {w w' : Nat} (h : w ≤ w') : maxValue w ≤ maxValue w' :=
  Nat.sub_le_sub_right (Nat.pow_le_pow_right (by omega) h) 1

theorem widthAfter_of_lt {w v : Nat} (h : maxValue w < v) : widthAfter w v = bitlen v := if_pos h

theorem widthAfter_of_le {w v : Nat} (h : ¬ maxValue w < v) : widthAfter w v = w := if_neg h

/-- A store never narrows. -/
theorem le_widthAfter (w v : Nat) : w ≤ widthAfter w v := by
  unfold widthAfter
  split
  · next h =>
    rw [← not_le, le_maxValue_iff] at h
    by_contra hlt
    exact h ((lt_two_pow_bitlen v).trans_le (Nat.pow_le_pow_right (by omega) (not_le.1 hlt).le))
  · exact le_rfl

/-- After a store the value fits. -/
theorem le_maxValue_widthAfter (w v : Nat) : v ≤ maxValue (widthAfter w v) := by
  unfold widthAfter
  split
  · exact (le_maxValue_iff ..).2 (lt_two_pow_bitlen v)
  · next h => exact not_lt.1 h

theorem widthAfter_le {w : Nat} (hw : w ≤ 64) (v : Word) : widthAfter w v.toNat ≤ 64 := by
  unfold widthAfter
  split
  · exact bitlen_le_of_lt v.isLt
  · exact hw

theorem toNat_u64_of_le {w : Nat} (hw : w ≤ 64) : (u64 w).toNat = w := by
  rw [BitVec.toNat_ofNat]
  omega

@[simp] theorem checkBpv_eq_none (w : Nat) : checkBpv w = none ↔ 1 ≤ w ∧ w ≤ 64 := require_eq_none _ _ _

/-! ## Pages (10_state R51) -/

theorem pgPageInv_new {w : Nat} (hw : 1 ≤ w ∧ w ≤ 64) (len : Nat) : PgPageInv len ⟨w, []⟩ :=
  ⟨hw, ⟨List.Pairwise.nil, fun _ => nofun⟩, fun _ => nofun⟩

theorem pgPageInv_store {len o : Nat} {q : PgPage} (v : Word) (hq : PgPageInv len q) (ho : o < len) :
    PgPageInv len ⟨widthAfter q.w v.toNat, cellPut q.val o v⟩ := by
  obtain ⟨⟨hlow, hhigh⟩, hcells, hvals⟩ := hq
  refine ⟨⟨hlow.trans (le_widthAfter ..), widthAfter_le hhigh v⟩, cellPut_cellsOk len q.val o v hcells ho,
    fun c hc => ?_⟩
  obtain ⟨rfl, -⟩ | hc := mem_cellPut q.val o v c hc
  · exact le_maxValue_widthAfter ..
  · exact (hvals c hc).trans (maxValue_mono (le_widthAfter ..))

theorem pgPageInv_cut {len : Nat} {q : PgPage} (hq : PgPageInv len q) (len' : Nat) :
    PgPageInv len' ⟨q.w, cellBelow q.val len'⟩ := by
  obtain ⟨hw, hcells, hvals⟩ := hq
  exact ⟨hw, cellBelow_cellsOk len len' q.val hcells, fun c hc => hvals c (List.mem_of_mem_filter hc)⟩

/-! ## Growable writer -/

/-- The growable writer holds one page of its size (45_dynamic_array R380). -/
theorem gwInv_of_ready {p : Params} {g : GrowableWriter} (h : g.state = .ready) :
    GwInv p g ↔ PgPageInv g.size.toNat ⟨g.bpv.toNat, g.val⟩ ∧ gwUsed g ≤ p.gwStoreWords := by
  rw [GwInv, forall_prop_of_true h]
  tauto

theorem gwInv_uninit (p : Params) : GwInv p {} := nofun

@[simp] theorem checkGwReady_eq_none (s : State) : checkGwReady s = none ↔ s.gw.state = .ready := require_eq_none _ _ _

@[simp] theorem checkGwIndex_eq_none (s : State) : checkGwIndex s = none ↔ s.args.a0.toNat < s.gw.size.toNat :=
  require_eq_none _ _ _

@[simp] theorem checkGwCapacity_eq_none (p : Params) (size w : Nat) :
    checkGwCapacity p size w = none ↔ seqWords size w ≤ p.gwStoreWords := require_eq_none _ _ _

theorem gwInv_init {p : Params} {size : Word} {w : Nat} (hw : 1 ≤ w ∧ w ≤ 64)
    (hcap : seqWords size.toNat w ≤ p.gwStoreWords) :
    GwInv p { state := .ready, size := size, bpv := u64 w, val := [] } := by
  rw [gwInv_of_ready (by rfl), gwUsed, toNat_u64_of_le hw.2]
  exact ⟨pgPageInv_new hw _, hcap⟩

theorem gwInv_set {p : Params} {g : GrowableWriter} {j : Nat} (v : Word) (hr : g.state = .ready) (hg : GwInv p g)
    (hj : j < g.size.toNat)
    (hcap : maxValue g.bpv.toNat < v.toNat → seqWords g.size.toNat (bitlen v.toNat) ≤ p.gwStoreWords) :
    GwInv p { g with bpv := u64 (widthAfter g.bpv.toNat v.toNat), val := cellPut g.val j v } := by
  obtain ⟨hpage, hused⟩ := (gwInv_of_ready hr).1 hg
  have hnew := pgPageInv_store v hpage hj
  rw [gwInv_of_ready (by exact hr), gwUsed, toNat_u64_of_le hnew.1.2]
  refine ⟨hnew, ?_⟩
  by_cases hwide : maxValue g.bpv.toNat < v.toNat
  · rw [widthAfter_of_lt hwide]
    exact hcap hwide
  · rw [widthAfter_of_le hwide]
    exact hused

theorem gwInv_resize {p : Params} {g : GrowableWriter} {size : Word} (hr : g.state = .ready) (hg : GwInv p g)
    (hcap : seqWords size.toNat g.bpv.toNat ≤ p.gwStoreWords) :
    GwInv p { g with size := size, val := cellBelow g.val size.toNat } :=
  (gwInv_of_ready (by exact hr)).2 ⟨pgPageInv_cut ((gwInv_of_ready hr).1 hg).1 _, hcap⟩

theorem exec_keeps_gwInv {i : Instr} {s t : State} (hs : GwInv s.cfg s.gw) (h : exec i s = .next t) :
    GwInv s.cfg t.gw := by
  obtain hi | hgw | hgw := (exec_contexts h).2.2.2.1
  · cases i
    case gwInit w =>
      simp only [exec, execGwInit] at h
      obtain ⟨hc, rfl⟩ | ⟨e, -, rfl⟩ := conclude_cases _ _ _ _ h
      · obtain ⟨hw, hcap⟩ := Option.or_eq_none_iff.1 hc
        exact gwInv_init ((checkBpv_eq_none w).1 hw) ((checkGwCapacity_eq_none ..).1 hcap)
      · exact hs
    case gwGet =>
      simp only [exec, execGwGet] at h
      obtain ⟨-, rfl⟩ | ⟨e, -, rfl⟩ := conclude_cases _ _ _ _ h
      · exact hs
      · exact hs
    case gwSet =>
      simp only [exec, execGwSet] at h
      obtain ⟨hc, rfl⟩ | ⟨e, -, rfl⟩ := conclude_cases _ _ _ _ h
      · obtain ⟨⟨hr, hj⟩, hcap⟩ : (s.gw.state = .ready ∧ s.args.a0.toNat < s.gw.size.toNat) ∧ _ := by
          simpa only [gwSetCheck, Option.or_eq_none_iff, checkGwReady_eq_none, checkGwIndex_eq_none] using hc
        exact gwInv_set _ hr hs hj fun hwide => by rwa [if_pos hwide, checkGwCapacity_eq_none] at hcap
      · exact hs
    case gwResize =>
      simp only [exec, execGwResize] at h
      obtain ⟨hc, rfl⟩ | ⟨e, -, rfl⟩ := conclude_cases _ _ _ _ h
      · obtain ⟨hr, hcap⟩ := Option.or_eq_none_iff.1 hc
        exact gwInv_resize ((checkGwReady_eq_none s).1 hr) hs ((checkGwCapacity_eq_none ..).1 hcap)
      · exact hs
    all_goals cases hi
  · rw [hgw]
    exact hs
  · rw [hgw]
    exact gwInv_uninit _

/-! ## Paged array -/

theorem pgPage_eq_getElem {g : PagedArray} {k : Nat} (hk : k < g.pages.length) : pgPage g k = g.pages[k] := by
  rw [pgPage, List.getD_eq_getElem?_getD, List.getElem?_eq_getElem hk, Option.getD_some]

theorem getElem?_eq_pgPage {g : PagedArray} {k : Nat} (hk : k < g.pages.length) : g.pages[k]? = some (pgPage g k) := by
  rw [pgPage_eq_getElem hk, List.getElem?_eq_getElem hk]

/-- The pages of a paged array, each with its number, instead of the numbers below the page count. -/
theorem pgInv_of_ready {p : Params} {g : PagedArray} (h : g.state = .ready) : PgInv p g ↔
    (6 ≤ g.shift.toNat ∧ g.shift.toNat ≤ 30) ∧ (1 ≤ g.bpv0.toNat ∧ g.bpv0.toNat ≤ 64) ∧
    pgNp g = pgPageCount g.size.toNat g.shift.toNat ∧ pgNp g ≤ p.pgMaxPages ∧ pgUsed g ≤ p.pgStoreWords ∧
    ∀ k q, g.pages[k]? = some q → PgPageInv (pgPageLen g.size.toNat g.shift.toNat k) q := by
  rw [PgInv, forall_prop_of_true h]
  have hpages : (∀ k, k < pgNp g → PgPageInv (pgPageLen g.size.toNat g.shift.toNat k) (pgPage g k)) ↔
      ∀ k q, g.pages[k]? = some q → PgPageInv (pgPageLen g.size.toNat g.shift.toNat k) q := by
    constructor
    · intro hall k q hq
      have hk : k < g.pages.length := (List.getElem?_eq_some_iff.1 hq).1
      rw [getElem?_eq_pgPage hk] at hq
      cases hq
      exact hall k hk
    · exact fun hall k hk => hall k _ (getElem?_eq_pgPage hk)
  rw [hpages]

theorem pgInv_uninit (p : Params) : PgInv p {} := nofun

@[simp] theorem checkPgReady_eq_none (s : State) : checkPgReady s = none ↔ s.pg.state = .ready := require_eq_none _ _ _

@[simp] theorem checkPgIndex_eq_none (s : State) : checkPgIndex s = none ↔ s.args.a0.toNat < s.pg.size.toNat :=
  require_eq_none _ _ _

theorem checkPgCapacity_eq_none (p : Params) (size sh np : Nat) (widths : Unit → List Nat) :
    checkPgCapacity p size sh np widths = none ↔
      np ≤ p.pgMaxPages ∧ pgWords size sh (widths ()) ≤ p.pgStoreWords ∧ size < 2 ^ 64 := by
  unfold checkPgCapacity
  split
  · next h => simp [not_le.2 h]
  · next h => simp [not_lt.1 h]

theorem pgInv_init {p : Params} {size shift : Word} {w : Nat} (hw : 1 ≤ w ∧ w ≤ 64)
    (hsh : 6 ≤ shift.toNat ∧ shift.toNat ≤ 30)
    (hcap : checkPgCapacity p size.toNat shift.toNat (pgPageCount size.toNat shift.toNat)
      (fun _ => List.replicate (pgPageCount size.toNat shift.toNat) w) = none) :
    PgInv p { state := .ready, size := size, shift := shift, bpv0 := u64 w,
              pages := List.replicate (pgPageCount size.toNat shift.toNat) ⟨w, []⟩ } := by
  obtain ⟨hnp, hwords, -⟩ := (checkPgCapacity_eq_none ..).1 hcap
  rw [pgInv_of_ready (by rfl), pgNp, pgUsed, List.length_replicate, List.map_replicate, toNat_u64_of_le hw.2]
  refine ⟨hsh, hw, rfl, hnp, hwords, fun k q hq => ?_⟩
  obtain rfl := List.eq_of_mem_replicate (List.mem_of_getElem? hq)
  exact pgPageInv_new hw _

/-- An index below the size lies in a page (45_dynamic_array R390). -/
theorem pgPageOf_lt {g : PagedArray} {j : Nat} (hnp : pgNp g = pgPageCount g.size.toNat g.shift.toNat)
    (hj : j < g.size.toNat) : pgPageOf g j < g.pages.length := by
  have hpow := Nat.two_pow_pos g.shift.toNat
  rw [← pgNp, hnp, pgPageOf, pgPageCount, ceilDiv, ← Nat.succ_le_iff, Nat.succ_eq_add_one, ← Nat.add_div_right _ hpow]
  exact Nat.div_le_div_right (by omega)

theorem pgOffsetOf_lt {g : PagedArray} {j : Nat} (hj : j < g.size.toNat) :
    pgOffsetOf g j < pgPageLen g.size.toNat g.shift.toNat (pgPageOf g j) := by
  have hdiv := Nat.div_add_mod' j (2 ^ g.shift.toNat)
  exact lt_min (Nat.mod_lt _ (Nat.two_pow_pos _)) (by unfold pgOffsetOf pgPageOf; omega)

theorem pgInv_set {p : Params} {g : PagedArray} {j : Nat} (v : Word) (hr : g.state = .ready) (hg : PgInv p g)
    (hj : j < g.size.toNat)
    (hcap : maxValue (pgPage g (pgPageOf g j)).w < v.toNat →
      checkPgCapacity p g.size.toNat g.shift.toNat (pgNp g)
        (fun _ => (g.pages.map PgPage.w).set (pgPageOf g j) (bitlen v.toNat)) = none) :
    PgInv p { g with pages := pgSetPages g j v } := by
  obtain ⟨hsh, hbpv, hnp, hmax, hused, hpages⟩ := (pgInv_of_ready hr).1 hg
  have hk := pgPageOf_lt hnp hj
  have hlength : (pgSetPages g j v).length = g.pages.length := List.length_set ..
  have hwidths : (pgSetPages g j v).map PgPage.w =
      (g.pages.map PgPage.w).set (pgPageOf g j) (pgWidthAfter g (pgPageOf g j) v.toNat) := List.map_set ..
  rw [pgInv_of_ready (by exact hr), pgNp, pgUsed, hlength, hwidths]
  refine ⟨hsh, hbpv, hnp, hmax, ?_, fun k q hq => ?_⟩
  · by_cases hwide : maxValue (pgPage g (pgPageOf g j)).w < v.toNat
    · rw [pgWidthAfter, widthAfter_of_lt hwide]
      exact ((checkPgCapacity_eq_none ..).1 (hcap hwide)).2.1
    · have hself : (pgPage g (pgPageOf g j)).w = (g.pages.map PgPage.w)[pgPageOf g j]'(by rwa [List.length_map]) := by
        rw [List.getElem_map, pgPage_eq_getElem hk]
      rw [pgWidthAfter, widthAfter_of_le hwide, hself, List.set_getElem_self]
      exact hused
  · rw [pgSetPages, List.getElem?_set] at hq
    by_cases he : pgPageOf g j = k
    · subst he
      rw [if_pos rfl, if_pos hk] at hq
      cases hq
      exact pgPageInv_store v (hpages _ _ (getElem?_eq_pgPage hk)) (pgOffsetOf_lt hj)
    · rw [if_neg he] at hq
      exact hpages k q hq

/-- The kept pages of a cut, each cut to its new length (45_dynamic_array R395). -/
theorem pgCutPages_eq (size sh k : Nat) (ps : List PgPage) : pgCutPages size sh k ps =
    ps.mapIdx fun j q => ⟨q.w, cellBelow q.val (pgPageLen size sh (k + j))⟩ := by
  induction ps generalizing k with
  | nil => rfl
  | cons q t ih =>
    rw [pgCutPages, ih, List.mapIdx_cons]
    simp only [Nat.add_zero, Nat.add_assoc, Nat.add_comm 1]

theorem widths_pgCutPages (size sh k : Nat) (ps : List PgPage) :
    (pgCutPages size sh k ps).map PgPage.w = ps.map PgPage.w := by
  induction ps generalizing k with
  | nil => rfl
  | cons q t ih => rw [pgCutPages, List.map_cons, List.map_cons, ih]

theorem checkPgRebuild_eq_none (p : Params) (g : PagedArray) (size : Nat) : checkPgRebuild p g size = none ↔
    pgPageCount size g.shift.toNat ≤ p.pgMaxPages ∧
    pgWords size g.shift.toNat (pgRebuiltWidths g (pgPageCount size g.shift.toNat)) ≤ p.pgStoreWords ∧
    size < 2 ^ 64 := by
  unfold checkPgRebuild
  exact checkPgCapacity_eq_none ..

theorem length_pgRebuilt (g : PagedArray) (size : Nat) :
    (pgRebuilt g size).pages.length = pgPageCount size g.shift.toNat := by
  simp only [pgRebuilt, pgCutPages_eq, pgNp, List.length_append, List.length_mapIdx, List.length_take,
    List.length_replicate]
  omega

theorem widths_pgRebuilt (g : PagedArray) (size : Nat) :
    (pgRebuilt g size).pages.map PgPage.w = pgRebuiltWidths g (pgPageCount size g.shift.toNat) := by
  simp only [pgRebuilt, pgRebuiltWidths, List.map_append, List.map_replicate, widths_pgCutPages, List.map_take]

/-- A page of the rebuilt array is a page kept and cut, or a new one (45_dynamic_array R395). -/
theorem getElem?_pgRebuilt {g : PagedArray} {size k : Nat} {q : PgPage} (hq : (pgRebuilt g size).pages[k]? = some q) :
    (∃ q0, g.pages[k]? = some q0 ∧ q = ⟨q0.w, cellBelow q0.val (pgPageLen size g.shift.toNat k)⟩) ∨
    q = ⟨g.bpv0.toNat, []⟩ := by
  simp only [pgRebuilt, pgCutPages_eq] at hq
  rw [List.getElem?_append] at hq
  split at hq
  · rw [List.getElem?_mapIdx, Option.map_eq_some_iff] at hq
    obtain ⟨q0, hq0, rfl⟩ := hq
    rw [List.getElem?_take, Option.ite_none_right_eq_some] at hq0
    exact .inl ⟨q0, hq0.2, by rw [Nat.zero_add]⟩
  · exact .inr (List.eq_of_mem_replicate (List.mem_of_getElem? hq))

theorem pgInv_rebuilt {p : Params} {g : PagedArray} {size : Nat} (hr : g.state = .ready) (hg : PgInv p g)
    (hcap : checkPgRebuild p g size = none) : PgInv p (pgRebuilt g size) := by
  obtain ⟨hsh, hbpv, -, -, -, hpages⟩ := (pgInv_of_ready hr).1 hg
  obtain ⟨hnp, hwords, hsize⟩ := (checkPgRebuild_eq_none ..).1 hcap
  have hsize64 : (pgRebuilt g size).size.toNat = size := by
    rw [pgRebuilt, BitVec.toNat_ofNat, Nat.mod_eq_of_lt hsize]
  rw [pgInv_of_ready (by exact hr), pgNp, pgUsed, length_pgRebuilt, widths_pgRebuilt, hsize64]
  refine ⟨hsh, hbpv, rfl, hnp, hwords, fun k q hq => ?_⟩
  obtain ⟨q0, hq0, rfl⟩ | rfl := getElem?_pgRebuilt hq
  · exact pgPageInv_cut (hpages k q0 hq0) _
  · exact pgPageInv_new hbpv _

theorem exec_keeps_pgInv {i : Instr} {s t : State} (hs : PgInv s.cfg s.pg) (h : exec i s = .next t) :
    PgInv s.cfg t.pg := by
  obtain hi | hpg | hpg := (exec_contexts h).2.2.2.2
  · cases i
    case pgInit w =>
      simp only [exec, execPgInit] at h
      obtain ⟨hc, rfl⟩ | ⟨e, -, rfl⟩ := conclude_cases _ _ _ _ h
      · obtain ⟨⟨hw, hsh⟩, hcap⟩ : ((1 ≤ w ∧ w ≤ 64) ∧ 6 ≤ s.args.a1.toNat ∧ s.args.a1.toNat ≤ 30) ∧ _ := by
          simpa only [pgInitCheck, Option.or_eq_none_iff, checkBpv_eq_none, require_eq_none] using hc
        exact pgInv_init hw hsh (by rwa [if_pos hsh] at hcap)
      · exact hs
    case pgGet | pgPageBpv =>
      simp only [exec, execPgGet, execPgPageBpv] at h
      obtain ⟨-, rfl⟩ | ⟨e, -, rfl⟩ := conclude_cases _ _ _ _ h
      · exact hs
      · exact hs
    case pgSet =>
      simp only [exec, execPgSet] at h
      obtain ⟨hc, rfl⟩ | ⟨e, -, rfl⟩ := conclude_cases _ _ _ _ h
      · obtain ⟨⟨hr, hj⟩, hcap⟩ : (s.pg.state = .ready ∧ s.args.a0.toNat < s.pg.size.toNat) ∧ _ := by
          simpa only [pgSetCheck, Option.or_eq_none_iff, checkPgReady_eq_none, checkPgIndex_eq_none] using hc
        exact pgInv_set _ hr hs hj fun hwide => by rwa [if_pos hwide] at hcap
      · exact hs
    case pgResize =>
      simp only [exec, execPgResize] at h
      obtain ⟨hc, rfl⟩ | ⟨e, -, rfl⟩ := conclude_cases _ _ _ _ h
      · obtain ⟨hr, hcap⟩ := Option.or_eq_none_iff.1 hc
        exact pgInv_rebuilt ((checkPgReady_eq_none s).1 hr) hs hcap
      · exact hs
    case pgGrow =>
      simp only [exec, execPgGrow] at h
      obtain ⟨hc, rfl⟩ | ⟨e, -, rfl⟩ := conclude_cases _ _ _ _ h
      · obtain ⟨hr, hcap⟩ := Option.or_eq_none_iff.1 hc
        rw [State.complete_pg, pgGrowEffect]
        split
        · exact hs
        · next hgrow => exact pgInv_rebuilt ((checkPgReady_eq_none s).1 hr) hs (by rwa [if_neg hgrow] at hcap)
      · exact hs
    all_goals cases hi
  · rw [hpg]
    exact hs
  · rw [hpg]
    exact pgInv_uninit _

theorem arrayInv_contextInvariant : ContextInvariant fun s => GwInv s.cfg s.gw ∧ PgInv s.cfg s.pg where
  congr _ _ h hs := by rwa [h.cfg, h.gw, h.pg]
  reset _ _ := ⟨gwInv_uninit _, pgInv_uninit _⟩
  exec _ _ _ hs h := by
    rw [exec_cfg h]
    exact ⟨exec_keeps_gwInv hs.1 h, exec_keeps_pgInv hs.2 h⟩

/-- Settles O59: the invariants of the two arrays are kept by each of their commands, hence by every step. -/
theorem stepKeepsArrayInv : Obligations.StepKeepsArrayInv :=
  fun _ _ hgw hpg h => arrayInv_contextInvariant.step ⟨hgw, hpg⟩ h

end Sys2Proof.Machine
end

section
/-! PROOFS. The register window as the host sees it: one rule for a load and one for a store (10_state R32, R45), and
the statements about the registers read off them. -/

namespace Sys2Proof.Machine

/-! ## Loads and stores of the window -/

theorem winReg_bounds {off : Nat} {r : WinReg} (h : winReg off = some r) : off < 4096 ∧ off % 8 = 0 := by
  unfold winReg at h
  split at h <;> simp_all

theorem mem_windowOffsets {off : Nat} {r : WinReg} (h : winReg off = some r) : off ∈ windowOffsets := by
  unfold winReg at h
  split at h
  case h_84 => cases h
  all_goals decide

/-- An aligned 64-bit access inside the window reaches the register of its offset, or a reserved one (10_state R32). -/
theorem windowAccess_at {s : State} {off : Nat} (hbase : s.cfg.regBase.toNat % 8 = 0) (hoff : off < 4096)
    (h8 : off % 8 = 0) (reserved : State) (act : WinReg → State) :
    windowAccess s 8 (s.cfg.regBase + u64 off) reserved act = .next ((winReg off).elim reserved act) := by
  have halign : (s.cfg.regBase + u64 off).toNat % 8 = 0 := by
    rw [BitVec.toNat_add, BitVec.toNat_ofNat]
    omega
  unfold windowAccess
  rw [windowOffset_add _ _ hoff, if_neg (by omega), if_neg fun hw => hw.elim (· rfl) (· halign)]
  cases winReg off <;> rfl

theorem step_load {s : State} {off : Nat} {rest : List Input} (h : nextIsLoad s off rest) (hoff : off < 4096)
    (h8 : off % 8 = 0) : step s = .next ((winReg off).elim { s with inputs := rest, hostData := 0 }
      fun r => readReg r { s with inputs := rest }) := by
  obtain ⟨hbase, hin⟩ := h
  unfold step stepInputs
  rw [hin]
  exact windowAccess_at (s := { s with inputs := rest }) hbase hoff h8 _ _

theorem step_store {s : State} {off : Nat} {v : Word} {rest : List Input} (h : nextIsStore s off v rest)
    (hoff : off < 4096) (h8 : off % 8 = 0) : step s = .next ((winReg off).elim { s with inputs := rest }
      fun r => writeReg r v { s with inputs := rest }) := by
  obtain ⟨hbase, hin⟩ := h
  unfold step stepInputs
  rw [hin]
  exact windowAccess_at (s := { s with inputs := rest }) hbase hoff h8 _ _

theorem regValue_inputs (s : State) (l : List Input) (r : WinReg) :
    regValue { s with inputs := l } r = regValue s r := by
  cases r <;> rfl

/-- A load of a register whose value is specified: any while idle, the exact ones also while a command runs
(10_state R45). -/
theorem step_load_exact {s : State} {off : Nat} {rest : List Input} {r : WinReg} (h : nextIsLoad s off rest)
    (hr : winReg off = some r) (he : s.status.busy = false ∨ exactWhileBusy r = true) :
    step s = .next { s with inputs := rest, hostData := regValue s r } := by
  obtain ⟨hoff, h8⟩ := winReg_bounds hr
  rw [step_load h hoff h8, hr, Option.elim_some, readReg, if_neg, regValue_inputs]
  obtain he | he := he <;> simp [he]

theorem step_store_register {s : State} {off : Nat} {v : Word} {rest : List Input} {r : WinReg}
    (h : nextIsStore s off v rest) (hr : winReg off = some r) :
    step s = .next (writeReg r v { s with inputs := rest }) := by
  obtain ⟨hoff, h8⟩ := winReg_bounds hr
  rw [step_store h hoff h8, hr, Option.elim_some]

theorem writeOperand_idle {s : State} (hb : s.status.busy = false) (t : State) : writeOperand s t = t :=
  if_neg (by simp [hb])

/-! ## Bits of the status words (10_state R34, R36, R38) -/

theorem getLsbD_flagAt (b : Bool) (k j : Nat) (hk : k < 64) : (flagAt b k).getLsbD j = (b && decide (j = k)) := by
  cases b with
  | false => simp [flagAt]
  | true =>
    rw [flagAt, if_pos rfl, BitVec.getLsbD_ofNat, Nat.testBit_two_pow, Bool.true_and, ← Bool.decide_and,
      decide_eq_decide]
    omega

/-- An 8-bit field placed in a register word. -/
theorem getLsbD_field (x : BitVec 8) (k j : Nat) (hk : k ≤ 56) :
    (x.setWidth 64 <<< k).getLsbD j = (decide (k ≤ j) && x.getLsbD (j - k)) := by
  rw [BitVec.getLsbD_shiftLeft, BitVec.getLsbD_setWidth]
  by_cases hj : j - k < 8
  · rw [decide_eq_true (by omega : j < 64), decide_eq_true (by omega : j - k < 64), Bool.true_and, Bool.true_and,
      ← decide_not]
    simp only [not_lt]
  · rw [BitVec.getLsbD_of_ge x (j - k) (by omega)]
    simp only [Bool.and_false]

theorem getLsbD_statusWord (t : Status) (j : Nat) : (statusWord t).getLsbD j =
    (t.busy && decide (j = 0) || t.done && decide (j = 1) || t.err && decide (j = 2) || t.ovr && decide (j = 3) ||
      t.errSticky && decide (j = 4) || decide (8 ≤ j) && t.errCode.getLsbD (j - 8) ||
      decide (16 ≤ j) && t.lastOpc.getLsbD (j - 16)) := by
  simp (disch := decide) only [statusWord, BitVec.getLsbD_or, getLsbD_flagAt, getLsbD_field]

theorem getLsbD_ctrlWord (c : Ctrl) (j : Nat) :
    (ctrlWord c).getLsbD j = (c.ieDone && decide (j = 0) || c.ieErr && decide (j = 1)) := by
  simp (disch := decide) only [ctrlWord, BitVec.getLsbD_or, getLsbD_flagAt]

theorem getLsbD_irqWord (q : IrqStatus) (j : Nat) :
    (irqWord q).getLsbD j = (q.doneIrq && decide (j = 0) || q.errIrq && decide (j = 1)) := by
  simp (disch := decide) only [irqWord, BitVec.getLsbD_or, getLsbD_flagAt]

/-- Where STATUS shows each of its fields (10_state R34). -/
theorem statusWord_fields (t : Status) :
    (statusWord t).getLsbD 0 = t.busy ∧ (statusWord t).getLsbD 1 = t.done ∧ (statusWord t).getLsbD 2 = t.err ∧
      (statusWord t).getLsbD 3 = t.ovr ∧ (statusWord t).getLsbD 4 = t.errSticky ∧
      (∀ k, 5 ≤ k → k < 8 → (statusWord t).getLsbD k = false) ∧ (statusWord t).extractLsb' 8 8 = t.errCode ∧
      (statusWord t).extractLsb' 16 8 = t.lastOpc ∧ ∀ k, 24 ≤ k → (statusWord t).getLsbD k = false := by
  refine ⟨?_, ?_, ?_, ?_, ?_, fun k h5 h8 => ?_, ?_, ?_, fun k h24 => ?_⟩
  case refine_7 =>
    refine BitVec.eq_of_getLsbD_eq fun j hj => ?_
    rw [BitVec.getLsbD_extractLsb', getLsbD_statusWord]
    simp [hj, show ¬ 8 + j = 1 by omega, show ¬ 8 + j = 2 by omega, show ¬ 8 + j = 3 by omega,
      show ¬ 8 + j = 4 by omega, show ¬ 16 ≤ 8 + j by omega]
  case refine_8 =>
    refine BitVec.eq_of_getLsbD_eq fun j hj => ?_
    rw [BitVec.getLsbD_extractLsb', getLsbD_statusWord, BitVec.getLsbD_of_ge t.errCode (16 + j - 8) (by omega)]
    simp [hj, show ¬ 16 + j = 1 by omega, show ¬ 16 + j = 2 by omega, show ¬ 16 + j = 3 by omega,
      show ¬ 16 + j = 4 by omega]
  case refine_6 =>
    rw [getLsbD_statusWord]
    simp [show k ≠ 0 by omega, show k ≠ 1 by omega, show k ≠ 2 by omega, show k ≠ 3 by omega, show k ≠ 4 by omega,
      show ¬ 8 ≤ k by omega, show ¬ 16 ≤ k by omega]
  case refine_9 =>
    rw [getLsbD_statusWord, BitVec.getLsbD_of_ge t.errCode (k - 8) (by omega),
      BitVec.getLsbD_of_ge t.lastOpc (k - 16) (by omega)]
    simp [show k ≠ 0 by omega, show k ≠ 1 by omega, show k ≠ 2 by omega, show k ≠ 3 by omega, show k ≠ 4 by omega]
  all_goals rw [getLsbD_statusWord]; simp

/-- Settles O12: STATUS_CLR, CTRL and STATUS are one load or store each, and the bits of their words. -/
theorem controlRegisters : Obligations.ControlRegisters := by
  refine ⟨⟨fun s rest h => step_load_exact (r := .statusClr) h rfl (.inr rfl),
    fun s v rest h => step_store_register (r := .statusClr) h rfl⟩, ⟨rfl, fun s rest h => ?_, fun s v rest h hv => ?_⟩,
    fun s rest h => ⟨_, step_load_exact (r := .status) h rfl (.inr rfl), statusWord_fields s.status⟩⟩
  · refine ⟨_, step_load_exact (r := .ctrl) h rfl (.inr rfl), ?_, ?_, fun k hk => ?_⟩ <;>
      rw [regValue, getLsbD_ctrlWord]
    · simp
    · simp
    · simp [show k ≠ 0 by omega, show k ≠ 1 by omega]
  · rw [step_store_register (r := .ctrl) h rfl, writeReg, hv, if_neg Bool.false_ne_true]
    rfl

/-! ## Operand, stream and result registers (10_state R40 to R43) -/

/-- The register of operand `k` (10_state R45). -/
def argWinReg : Nat → WinReg
  | 0 => .arg0
  | 1 => .arg1
  | 2 => .arg2
  | 3 => .arg3
  | 4 => .arg4
  | 5 => .arg5
  | 6 => .arg6
  | _ => .arg7

/-- The operand registers with operand `k` written (10_state R40). -/
def setArg (a : Args) (k : Nat) (v : Word) : Args :=
  match k with
  | 0 => { a with a0 := v }
  | 1 => { a with a1 := v }
  | 2 => { a with a2 := v }
  | 3 => { a with a3 := v }
  | 4 => { a with a4 := v }
  | 5 => { a with a5 := v }
  | 6 => { a with a6 := v }
  | _ => { a with a7 := v }

theorem winReg_arg {k : Nat} (hk : k < 8) : winReg (0x040 + 8 * k) = some (argWinReg k) := by
  interval_cases k <;> rfl

theorem regValue_arg (s : State) {k : Nat} (hk : k < 8) : regValue s (argWinReg k) = argReg s.args k := by
  interval_cases k <;> rfl

theorem exactWhileBusy_arg {k : Nat} (hk : k < 8) : exactWhileBusy (argWinReg k) = true := by
  interval_cases k <;> rfl

theorem writeReg_arg (s : State) (v : Word) {k : Nat} (hk : k < 8) :
    writeReg (argWinReg k) v s = writeOperand s { s with args := setArg s.args k v } := by
  interval_cases k <;> rfl

theorem argReg_setArg_same (a : Args) (k : Nat) (v : Word) (hk : k < 8) : argReg (setArg a k v) k = v := by
  interval_cases k <;> rfl

theorem argReg_setArg_other (a : Args) {j k : Nat} (v : Word) (hj : j < 8) (hk : k < 8) (h : j ≠ k) :
    argReg (setArg a k v) j = argReg a j := by
  interval_cases k <;> interval_cases j <;> simp_all [setArg, argReg]

/-- The register of result `k` (10_state R45). -/
def resWinReg : Nat → WinReg
  | 0 => .res0
  | 1 => .res1
  | 2 => .res2
  | _ => .res3

theorem winReg_res {k : Nat} (hk : k < 4) : winReg (0x080 + 8 * k) = some (resWinReg k) := by
  interval_cases k <;> rfl

theorem regValue_res (s : State) {k : Nat} (hk : k < 4) : regValue s (resWinReg k) = resReg s.res k := by
  interval_cases k <;> rfl

/-- A load of an operand register is exact at any time (log 9). -/
theorem step_load_arg {s : State} {k : Nat} {rest : List Input} (hk : k < 8) (h : nextIsLoad s (0x040 + 8 * k) rest) :
    step s = .next { s with inputs := rest, hostData := argReg s.args k } := by
  rw [step_load_exact h (winReg_arg hk) (.inr (exactWhileBusy_arg hk)), regValue_arg s hk]

/-- A store to an operand or stream register while no command runs is that register's alone. -/
theorem step_store_operand {s t : State} {off : Nat} {v : Word} {rest : List Input} {r : WinReg}
    (hb : s.status.busy = false) (h : nextIsStore s off v rest) (hr : winReg off = some r)
    (hw : writeReg r v { s with inputs := rest } = writeOperand { s with inputs := rest } t) : step s = .next t := by
  rw [step_store_register h hr, hw, writeOperand_idle (s := { s with inputs := rest }) hb]

/-- Settles O14: a command leaves the operand registers alone, and the window reads and writes them. -/
theorem hostOperandRegisters : Obligations.HostOperandRegisters :=
  ⟨⟨fun k hk => by interval_cases k <;> rfl, fun _ _ _ h => exec_args h,
      fun s k _ hk => ⟨fun h _ => step_load_arg hk h,
        fun v h hb => ⟨setArg s.args k v, step_store_operand hb h (winReg_arg hk) (writeReg_arg _ v hk),
          argReg_setArg_same _ _ _ hk, fun _ hj hne => argReg_setArg_other _ _ hj hk hne⟩⟩⟩,
    ⟨rfl, rfl, rfl, rfl⟩, fun _ _ _ hb =>
      ⟨fun h => step_store_operand (r := .inPtr) hb h rfl rfl, fun h => step_store_operand (r := .inEnd) hb h rfl rfl,
        fun h => step_store_operand (r := .outPtr) hb h rfl rfl,
        fun h => step_store_operand (r := .outEnd) hb h rfl rfl,
        fun h => step_load_exact (r := .inPtr) h rfl (.inl hb), fun h => step_load_exact (r := .inEnd) h rfl (.inl hb),
        fun h => step_load_exact (r := .outPtr) h rfl (.inl hb),
        fun h => step_load_exact (r := .outEnd) h rfl (.inl hb)⟩⟩

/-- Settles O9: from the ends of a command, and from what a step keeps short of a reset. -/
theorem resultAndErrorRegisters : Obligations.ResultAndErrorRegisters := by
  refine ⟨fun i s t h => exec_results h, ⟨rfl, fun s t hlegal h => ?_,
    fun s rest hb h => step_load_exact (r := .errInfo) h rfl (.inl hb),
    fun s v rest h => step_store_register (r := .errInfo) h rfl⟩,
    fun s k rest hk hb h => by rw [step_load_exact h (winReg_res hk) (.inl hb), regValue_res s hk],
    fun s rest h => step_load_exact (r := .cmd) h rfl (.inr rfl)⟩
  obtain hreset | ⟨rest, u, hk, -, rfl | ⟨hb, hc⟩⟩ := step_resets_or_keeps hlegal.2.1 h
  · exact .inr (.inr hreset)
  · exact .inl hk.errInfo
  · obtain herr | ⟨herr, hcode⟩ := hc.errInfo
    · exact .inl (herr.trans hk.errInfo)
    · exact .inr (.inl ⟨hb, hc.busy, herr, hcode⟩)

/-- Settles O10: BUSY falls at a completion or at a reset alone, and a completion sets the pending bits. -/
theorem irqStatusRegister : Obligations.IrqStatusRegister := by
  refine ⟨rfl, fun s rest h => ?_, fun s v rest h => step_store_register (r := .irqStatus) h rfl,
    fun s t hlegal h hs ht => ?_⟩
  · refine ⟨_, step_load_exact (r := .irqStatus) h rfl (.inr rfl), ?_, ?_, fun k hk => ?_⟩ <;>
      rw [regValue, getLsbD_irqWord]
    · simp
    · simp
    · simp [show k ≠ 0 by omega, show k ≠ 1 by omega]
  · obtain hreset | ⟨rest, u, hk, -, rfl | ⟨-, hc⟩⟩ := step_resets_or_keeps hlegal.2.1 h
    · exact .inr hreset
    · exact absurd (ht.symm.trans (hk.running hs).1) Bool.false_ne_true
    · exact .inl ⟨hc.doneIrq, fun herr => hc.errIrq ((hk.running hs).2.trans herr)⟩

/-! ## Read-only and reserved offsets (10_state R31, R32, R45, R46) -/

/-- The offsets of the registers the host may write (10_state R45). -/
def writableOffsets : List Nat :=
  [0x010, 0x020, 0x028, 0x030, 0x040, 0x048, 0x050, 0x058, 0x060, 0x068, 0x070, 0x078, 0x0A0, 0x0A8, 0x0B0, 0x0B8]

/-- The cases are the rows of the map of R45 in their order, the last one the reserved offsets. -/
theorem writeReg_of_not_writable {off : Nat} {r : WinReg} (h : winReg off = some r) (hoff : off ∉ writableOffsets)
    (v : Word) (s : State) : writeReg r v s = s := by
  unfold winReg at h
  split at h
  case h_3 | h_5 | h_6 | h_7 | h_9 | h_10 | h_11 | h_12 | h_13 | h_14 | h_15 | h_16 | h_21 | h_22 | h_23 | h_24 =>
    exact absurd (by decide) hoff
  case h_84 => cases h
  all_goals
    cases h
    rfl

theorem step_store_ignored {s : State} {off : Nat} {v : Word} {rest : List Input} (h : nextIsStore s off v rest)
    (hoff : off < 4096) (h8 : off % 8 = 0) (hw : off ∉ writableOffsets) : step s = .next { s with inputs := rest } := by
  rw [step_store h hoff h8]
  cases hr : winReg off with
  | none => rfl
  | some r => exact congrArg _ (writeReg_of_not_writable hr hw v _)

theorem step_load_reserved {s : State} {off : Nat} {rest : List Input} (h : nextIsLoad s off rest) (hoff : off < 4096)
    (h8 : off % 8 = 0) (hres : off ∉ windowOffsets) : step s = .next { s with inputs := rest, hostData := 0 } := by
  rw [step_load h hoff h8]
  cases hr : winReg off with
  | none => rfl
  | some r => exact absurd (mem_windowOffsets hr) hres

/-- A read-only register whose value is a number below 2^64 (10_state R31, R46). -/
theorem readOnly_register (s : State) (rest : List Input) {off n : Nat} {r : WinReg} (hr : winReg off = some r)
    (hexact : exactWhileBusy r = true) (hn : n < 2 ^ 64) (hval : regValue s r = u64 n) (hw : off ∉ writableOffsets) :
    (nextIsLoad s off rest → ∃ v : Word, v.toNat = n ∧ step s = .next { s with inputs := rest, hostData := v }) ∧
    ∀ v : Word, nextIsStore s off v rest → step s = .next { s with inputs := rest } := by
  obtain ⟨hoff, h8⟩ := winReg_bounds hr
  refine ⟨fun h => ⟨u64 n, ?_, ?_⟩, fun v h => step_store_ignored h hoff h8 hw⟩
  · rw [BitVec.toNat_ofNat, Nat.mod_eq_of_lt hn]
  · rw [step_load_exact h hr (.inr hexact), hval]

/-! ## Context registers (10_state R47 to R53) -/

/-- A state register reads its code and, at weight 256, its flag. -/
theorem stateWord_eq {code : Nat} (hc : code < 8) (flag : Bool) :
    stateWord code flag = u64 (code + if flag then 256 else 0) := by
  cases flag <;> interval_cases code <;> rfl

theorem unitStateCode_lt (u : UnitState) : unitStateCode u < 8 := by cases u <;> decide

theorem pgWordsFrom_eq_sum (size sh : Nat) (ps : List PgPage) (k : Nat) : pgWordsFrom size sh k (ps.map PgPage.w) =
    ((List.range ps.length).map fun j => seqWords (pgPageLen size sh (k + j)) (ps.getD j ⟨1, []⟩).w).sum := by
  induction ps generalizing k with
  | nil => rfl
  | cons q t ih =>
    rw [List.map_cons, pgWordsFrom, ih, List.length_cons, List.range_succ_eq_map, List.map_cons, List.sum_cons,
      List.map_map]
    simp [Function.comp_def, Nat.add_assoc, Nat.add_comm 1]

/-- The entry of a register map at the offset `off` is what the window reads there. -/
def ReadsAs (s : State) (p : Nat × Word) : Prop := ∃ r, winReg p.1 = some r ∧ regValue s r = p.2

theorem deltaRegisters_read (s : State) : ∀ p ∈ deltaRegisters s, ReadsAs s p := by
  have hde := stateWord_eq (show deStateCode s.de.state < 8 by cases s.de.state <;> decide) s.de.mono
  have hdd := stateWord_eq (show ddStateCode s.dd.state < 8 by cases s.dd.state <;> decide) s.dd.mono
  simp only [deltaRegisters, List.forall_mem_cons, List.not_mem_nil, false_imp_iff, implies_true, and_true]
  exact ⟨⟨_, rfl, hde⟩, ⟨_, rfl, rfl⟩, ⟨_, rfl, rfl⟩, ⟨_, rfl, rfl⟩, ⟨_, rfl, hdd⟩, ⟨_, rfl, rfl⟩, ⟨_, rfl, rfl⟩,
    ⟨_, rfl, rfl⟩, ⟨_, rfl, rfl⟩⟩

theorem arrayRegisters_read (s : State) : ∀ p ∈ arrayRegisters s, ReadsAs s p := by
  have hgb := stateWord_eq (unitStateCode_lt s.gb.state) s.gb.mono
  have hgw := stateWord_eq (unitStateCode_lt s.gw.state) false
  have hpg := stateWord_eq (unitStateCode_lt s.pg.state) false
  have hused : pgUsed s.pg = ((List.range s.pg.pages.length).map fun k =>
      (min (2 ^ s.pg.shift.toNat) (s.pg.size.toNat - k * 2 ^ s.pg.shift.toNat) * (pgPage s.pg k).w + 63) / 64).sum := by
    rw [pgUsed, pgWords, pgWordsFrom_eq_sum]
    simp only [Nat.zero_add]
    rfl
  simp only [arrayRegisters, List.forall_mem_cons, List.not_mem_nil, false_imp_iff, implies_true, and_true]
  exact ⟨⟨_, rfl, hgb⟩, ⟨_, rfl, rfl⟩, ⟨_, rfl, rfl⟩, ⟨_, rfl, rfl⟩, ⟨_, rfl, rfl⟩, ⟨_, rfl, rfl⟩, ⟨_, rfl, rfl⟩,
    ⟨_, rfl, hgw⟩, ⟨_, rfl, rfl⟩, ⟨_, rfl, rfl⟩, ⟨_, rfl, rfl⟩, ⟨_, rfl, hpg⟩, ⟨_, rfl, rfl⟩, ⟨_, rfl, rfl⟩,
    ⟨_, rfl, rfl⟩, ⟨_, rfl, rfl⟩, ⟨_, rfl, congrArg u64 hused⟩⟩

/-- The direction at the weight of the flag of a state register (10_state R53). -/
def directionWeight : Direction → Nat
  | .forward => 0
  | .backward => 256

/-- The direction stands in the flag of the decoder's state register (10_state R53). -/
theorem efdStateWord_eq (c : EfDecoder) : stateWord (unitStateCode c.state) (c.dir == .backward) =
    u64 (unitStateCode c.state + directionWeight c.dir) := by
  rw [stateWord_eq (unitStateCode_lt c.state)]
  cases c.dir <;> rfl

theorem eliasFanoRegisters_read (s : State) : ∀ p ∈ eliasFanoRegisters s, ReadsAs s p := by
  have hefe := stateWord_eq (show efeStateCode s.efe.state < 8 by cases s.efe.state <;> decide) false
  have hefd := efdStateWord_eq s.efd
  simp only [eliasFanoRegisters, List.forall_mem_cons, List.not_mem_nil, false_imp_iff, implies_true, and_true]
  exact ⟨⟨_, rfl, hefe⟩, ⟨_, rfl, rfl⟩, ⟨_, rfl, rfl⟩, ⟨_, rfl, rfl⟩, ⟨_, rfl, rfl⟩, ⟨_, rfl, rfl⟩, ⟨_, rfl, rfl⟩,
    ⟨_, rfl, rfl⟩, ⟨_, rfl, rfl⟩, ⟨_, rfl, rfl⟩, ⟨_, rfl, rfl⟩, ⟨_, rfl, rfl⟩, ⟨_, rfl, rfl⟩, ⟨_, rfl, hefd⟩,
    ⟨_, rfl, rfl⟩, ⟨_, rfl, rfl⟩, ⟨_, rfl, rfl⟩, ⟨_, rfl, rfl⟩, ⟨_, rfl, rfl⟩, ⟨_, rfl, rfl⟩, ⟨_, rfl, rfl⟩,
    ⟨_, rfl, rfl⟩, ⟨_, rfl, rfl⟩, ⟨_, rfl, rfl⟩⟩

/-- Every context register of the map of R45 is a register of the window and reads what the map says. -/
theorem contextRegisters_read (s : State) :
    ∀ p ∈ deltaRegisters s ++ arrayRegisters s ++ eliasFanoRegisters s, ReadsAs s p :=
  List.forall_mem_append.2
    ⟨List.forall_mem_append.2 ⟨deltaRegisters_read s, arrayRegisters_read s⟩, eliasFanoRegisters_read s⟩

/-- Settles O13: the read-only registers by their values, the reserved offsets, and the contexts by their map. -/
theorem readOnlyRegisters : Obligations.ReadOnlyRegisters := by
  refine ⟨fun s rest hlegal => ?_, fun s off rest hoff h8 => ⟨fun v h hw => step_store_ignored h hoff h8 hw,
    fun h hres => step_load_reserved h hoff h8 hres⟩, fun s rest hb p hp h => ?_⟩
  · obtain ⟨⟨-, -, hmem⟩, -, ⟨hmax24, hmax48⟩, ⟨-, hgb⟩, ⟨-, hgbw⟩, ⟨-, hgw⟩, ⟨-, hpg⟩, ⟨-, hpgw⟩, -, hef⟩ := hlegal
    simp only [List.forall_mem_cons, List.not_mem_nil, false_imp_iff, implies_true, and_true]
    exact ⟨readOnly_register s rest (r := .id) rfl rfl (by decide) rfl (by decide),
      readOnly_register s rest (r := .version) rfl rfl (by decide) rfl (by decide),
      readOnly_register s rest (r := .pMemBytes) rfl rfl hmem rfl (by decide),
      readOnly_register s rest (r := .pMax24) rfl rfl (by omega) rfl (by decide),
      readOnly_register s rest (r := .pMax48) rfl rfl (by omega) rfl (by decide),
      readOnly_register s rest (r := .pGbMaxBlocks) rfl rfl hgb rfl (by decide),
      readOnly_register s rest (r := .pGbStoreWords) rfl rfl hgbw rfl (by decide),
      readOnly_register s rest (r := .pGwStoreWords) rfl rfl hgw rfl (by decide),
      readOnly_register s rest (r := .pPgMaxPages) rfl rfl hpg rfl (by decide),
      readOnly_register s rest (r := .pPgStoreWords) rfl rfl hpgw rfl (by decide),
      readOnly_register s rest (r := .pEfMaxValues) rfl rfl (by omega) rfl (by decide)⟩
  · obtain ⟨r, hr, hval⟩ := contextRegisters_read s p hp
    rw [step_load_exact h hr (.inl hb), hval]

/-! ## The reset state (70_reset R580) -/

theorem config_params_legal : Config.params.legal := by
  have hbase : Config.params.regBase.toNat % 8 = 0 := by
    rw [Config.params, BitVec.toNat_ofNat]
    omega
  refine ⟨?_, hbase, ?_, ?_, ?_, ?_, ?_, ?_, ?_⟩ <;> simp only [Config.params] <;> omega

end Sys2Proof.Machine
end

section
/-! PROOFS. The reset state (70_reset R580), and what an access of the host leaves alone (70_reset R590). -/

namespace Sys2Proof.Machine

/-! ## The reset state -/

/-- What the window reads in the reset state (10_state R45): the constants and the parameters, 0 elsewhere. -/
def resetValue (p : Params) (off : Nat) : Word :=
  if off = 0x000 then 0x0000000042503634 else if off = 0x008 then 0x0000000000010000
  else if off = 0x0C0 then u64 p.memBytes else if off = 0x0C8 then u64 p.max24
  else if off = 0x0D0 then u64 p.max48 else if off = 0x0D8 then u64 p.gbMaxBlocks
  else if off = 0x0E0 then u64 p.gbStoreWords else if off = 0x0E8 then u64 p.gwStoreWords
  else if off = 0x0F0 then u64 p.pgMaxPages else if off = 0x0F8 then u64 p.pgStoreWords
  else if off = 0x100 then u64 p.efMaxValues else 0

/-- The cases are the rows of the map of R45 in their order: the status words and the state registers are 0 by their
bits, the used words of the empty writer by their count, the others as they stand. -/
theorem regValue_resetOf (p : Params) {off : Nat} {r : WinReg} (h : winReg off = some r) :
    regValue (State.resetOf p) r = resetValue p off := by
  unfold winReg at h
  split at h
  case h_84 => cases h
  all_goals cases h
  case h_4.refl => exact (by decide : statusWord {} = 0)
  case h_5.refl => exact (by decide : ctrlWord {} = 0)
  case h_7.refl => exact (by decide : irqWord {} = 0)
  case h_34.refl | h_38.refl | h_43.refl | h_50.refl | h_54.refl | h_60.refl | h_73.refl =>
    exact (by decide : stateWord 0 false = 0)
  case h_53.refl => exact (by decide : u64 (gwUsed {}) = 0)
  all_goals rfl

theorem resetValue_reserved (p : Params) {off : Nat} (h : winReg off = none) : resetValue p off = 0 := by
  have hne : ∀ k r, winReg k = some r → off ≠ k := fun k r hk he => by simp [he, hk] at h
  simp [resetValue, hne 0x000 .id rfl, hne 0x008 .version rfl, hne 0x0C0 .pMemBytes rfl, hne 0x0C8 .pMax24 rfl,
    hne 0x0D0 .pMax48 rfl, hne 0x0D8 .pGbMaxBlocks rfl, hne 0x0E0 .pGbStoreWords rfl, hne 0x0E8 .pGwStoreWords rfl,
    hne 0x0F0 .pPgMaxPages rfl, hne 0x0F8 .pPgStoreWords rfl, hne 0x100 .pEfMaxValues rfl]

/-- Settles O17: the parameters by their bounds, each offset by its register or as a reserved one. -/
theorem resetStateHolds : Obligations.ResetStateHolds := by
  refine ⟨config_params_legal, fun off hoff h8 => ?_, ⟨rfl, rfl⟩, ⟨rfl, rfl⟩, ⟨rfl, rfl, rfl⟩, ⟨rfl, rfl⟩, ⟨rfl, rfl⟩,
    rfl, rfl, rfl⟩
  have hload : nextIsLoad { State.reset with inputs := [.host (.regLoad 8 (Config.params.regBase + u64 off))] } off
      [] := ⟨config_params_legal.2.1, rfl⟩
  cases hr : winReg off with
  | none =>
    rw [step_load hload hoff h8, hr]
    exact congrArg (fun v => Host.Outcome.next { State.reset with hostData := v }) (resetValue_reserved _ hr).symm
  | some r =>
    rw [step_load_exact hload hr (.inl rfl), regValue_inputs]
    exact congrArg (fun v => Host.Outcome.next { State.reset with hostData := v }) (regValue_resetOf _ hr)

/-! ## The frame of an access of the host -/

/-- The bytes of the data memory an access of the host stores to. -/
def storedRanges : HostAccess → List (Nat × Nat)
  | .memStoreWord x _ => [(x, 8)]
  | .memStoreByte x _ => [(x, 1)]
  | .regLoad .. | .regStore .. | .memLoadWord _ | .memLoadByte _ => []

/-- The data memory after an access of the host short of a reset (20_memory R109). -/
theorem hostStep_mem {a : HostAccess} {s t : State} (h : hostStep a s = .next t) :
    isSoftReset s.cfg a ∨
    (sameOutsideRanges s.mem t.mem (storedRanges a ++ if s.status.busy then runningRanges s else []) ∧
      (storedRanges a = [] → t.mem = s.mem)) := by
  cases hostStep_effect h with
  | noStore => exact .inr ⟨fun _ _ => rfl, fun _ => rfl⟩
  | register addr v r hr =>
    obtain ⟨rfl, hv, -⟩ | ⟨-, hm⟩ := (writeReg_effect r v s).keeps
    · exact .inl ⟨v, hv, by rw [← winReg_eq_ctrl hr, regBase_add_windowOffset]⟩
    · exact .inr ⟨fun _ _ => by rw [hm], fun _ => hm⟩
  | word x v =>
    obtain ⟨m, k, hz, ht, -, hm⟩ := hostStore_eq s x 8 v.toNat
    rw [ht]
    exact .inr ⟨hm, nofun⟩
  | byte x v =>
    obtain ⟨m, k, hz, ht, -, hm⟩ := hostStore_eq s x 1 v.toNat
    rw [ht]
    exact .inr ⟨hm, nofun⟩

theorem runningRanges_inputs (s : State) (l : List Input) : runningRanges { s with inputs := l } = runningRanges s := by
  unfold runningRanges
  cases decode s.cmd with
  | error e => rfl
  | ok i => cases i <;> rfl

/-- Settles O15: a host access is no reset, so it keeps what `HostKeeps` says and the memory it does not store to. -/
theorem hostAccessFrame : Obligations.HostAccessFrame := by
  refine ⟨fun s t a rest hin h hno hlegal => ?_, fun s k rest hk h => step_load_arg hk h⟩
  have hstep : hostStep a { s with inputs := rest } = .next t := by
    rw [← h]
    unfold step stepInputs
    rw [hin]
  have hsoft : ¬ isSoftReset s.cfg a := by
    rintro ⟨v, hv, rfl⟩
    exact hno ⟨rest, .inr ⟨v, hv, .inl ⟨hlegal.2.1, hin⟩⟩⟩
  obtain ⟨hs, -⟩ | hk := hostStep_keeps hstep
  · exact absurd hs hsoft
  obtain hs | ⟨hm, hsame⟩ := hostStep_mem hstep
  · exact absurd hs hsoft
  rw [runningRanges_inputs] at hm
  refine ⟨⟨hk.cfg, hk.de, hk.dd, hk.gb, hk.gw, hk.pg, hk.efe, hk.efd, hk.res, hk.errInfo, hk.inputs⟩, hk.idle, ?_⟩
  cases a with
  | memStoreWord x v => exact hm
  | memStoreByte x v => exact hm
  | regLoad w addr => exact hsame rfl
  | regStore w addr v => exact hsame rfl
  | memLoadWord x => exact hsame rfl
  | memLoadByte x => exact hsame rfl

end Sys2Proof.Machine
end

section
/-! PROOFS. The interrupt (60_exceptions R545, R546): no command looks at IRQ_STATUS or CTRL, and no access of the host
at the inputs still to come. -/

namespace Sys2Proof.Machine

/-! ## The engine does not look at IRQ_STATUS and CTRL (60_exceptions R545) -/

/-- The state with other pending interrupts and other enables. -/
def State.withInterrupt (s : State) (q : IrqStatus) (c : Ctrl) : State := { s with irq := q, ctrl := c }

/-- The outcome of a command over other pending interrupts and other enables. -/
def interruptOutcome (q : IrqStatus) (c : Ctrl) (t : State) : State :=
  { t with irq := { doneIrq := true, errIrq := q.errIrq || t.status.err }, ctrl := c }

theorem conclude_withInterrupt {s : State} (q : IrqStatus) (c : Ctrl) (chk : Check) {f f' : Unit → State}
    (hs : s.status.err = false) (hstatus : (f ()).status = s.status) (hf : f' () = (f ()).withInterrupt q c) :
    (s.withInterrupt q c).conclude chk f' = mapNext (interruptOutcome q c) (s.conclude chk f) := by
  cases chk with
  | some e =>
    rw [conclude_some, conclude_some, mapNext_next, interruptOutcome, State.completeErr_status, statusCompleteErr_err,
      Bool.or_true]
    rfl
  | none =>
    have herr : (f ()).status.err = false := hstatus ▸ hs
    rw [conclude_none, conclude_none, mapNext_next, interruptOutcome, State.complete_status, statusComplete_err, herr,
      Bool.or_false, hf]
    rfl

theorem havocRanges_withInterrupt (s : State) (q : IrqStatus) (c : Ctrl) (rs : List (Nat × Nat)) :
    (s.withInterrupt q c).havocRanges rs = (s.havocRanges rs).withInterrupt q c := by
  induction rs generalizing s with
  | nil => rfl
  | cons r t ih => exact ih (s.havoc r.1 r.2)

theorem settleRegions_withInterrupt (s : State) (q : IrqStatus) (c : Ctrl) (y : EfLayout) :
    (s.withInterrupt q c).settleRegions y = (s.settleRegions y).withInterrupt q c := by
  unfold State.settleRegions
  split
  · exact havocRanges_withInterrupt s q c _
  · rfl

theorem overlapResult_withInterrupt (s : State) (q : IrqStatus) (c : Ctrl) (y : EfLayout) (v : Word) :
    (s.withInterrupt q c).overlapResult y v = (s.overlapResult y v).withInterrupt q c := by
  unfold State.overlapResult
  split <;> rfl

theorem bpDecode_withInterrupt (w : Nat) (f : Format) (b : BpArrays) (s : State) (q : IrqStatus) (c : Ctrl) :
    bpDecode w f b (s.withInterrupt q c) = (bpDecode w f b s).withInterrupt q c := by
  unfold bpDecode
  split <;> rfl

theorem bpEncode_withInterrupt (w : Nat) (f : Format) (b : BpArrays) (s : State) (q : IrqStatus) (c : Ctrl) :
    bpEncode w f b (s.withInterrupt q c) = (bpEncode w f b s).withInterrupt q c := by
  unfold bpEncode
  split <;> rfl

theorem gbIterStep_withInterrupt (s : State) (q : IrqStatus) (c : Ctrl) :
    gbIterStep (s.withInterrupt q c) = (gbIterStep s).withInterrupt q c := by
  dsimp only [gbIterStep, State.withInterrupt]
  split <;> rfl

theorem pgGrowEffect_withInterrupt (s : State) (q : IrqStatus) (c : Ctrl) :
    pgGrowEffect (s.withInterrupt q c) = (pgGrowEffect s).withInterrupt q c := by
  dsimp only [pgGrowEffect, State.withInterrupt]
  split <;> rfl

theorem efdMove_withInterrupt (s : State) (q : IrqStatus) (c : Ctrl) (target : List Nat → Int) :
    (s.withInterrupt q c).efdMove target = (s.efdMove target).withInterrupt q c := by
  have hseq : efdSequence (s.withInterrupt q c) = efdSequence s := rfl
  unfold State.efdMove
  rw [hseq]
  cases efdSequence s <;> rfl

theorem efdToAfterEffect_withInterrupt (s : State) (q : IrqStatus) (c : Ctrl) :
    efdToAfterEffect (s.withInterrupt q c) = (efdToAfterEffect s).withInterrupt q c := by
  have hseq : efdSequence (s.withInterrupt q c) = efdSequence s := rfl
  unfold efdToAfterEffect
  rw [hseq]
  cases efdSequence s <;> rfl

theorem efdCurrentEffect_withInterrupt (s : State) (q : IrqStatus) (c : Ctrl) :
    efdCurrentEffect (s.withInterrupt q c) = (efdCurrentEffect s).withInterrupt q c := by
  have hseq : efdSequence (s.withInterrupt q c) = efdSequence s := rfl
  unfold efdCurrentEffect
  rw [hseq]
  cases efdSequence s <;> rfl

theorem efeInitEffect_withInterrupt (s : State) (q : IrqStatus) (c : Ctrl) :
    efeInitEffect (s.withInterrupt q c) = (efeInitEffect s).withInterrupt q c := by
  unfold efeInitEffect
  exact congrArg (fun t : State => (((t.setRes0 _).setRes1 _).setRes2 _).setRes3 _)
    (settleRegions_withInterrupt { s with mem := _, efe := _ } q c _)

theorem efeEncodeEffect_withInterrupt (s : State) (q : IrqStatus) (c : Ctrl) :
    efeEncodeEffect (s.withInterrupt q c) = (efeEncodeEffect s).withInterrupt q c := by
  unfold efeEncodeEffect
  exact (congrArg (State.overlapResult · _ _) (settleRegions_withInterrupt { s with mem := _, efe := _ } q c _)).trans
    (overlapResult_withInterrupt _ q c _ _)

theorem efeFinishEffect_withInterrupt (s : State) (q : IrqStatus) (c : Ctrl) :
    efeFinishEffect (s.withInterrupt q c) = (efeFinishEffect s).withInterrupt q c := by
  unfold efeFinishEffect
  exact (congrArg (State.overlapResult · _ _) (settleRegions_withInterrupt { s with mem := _, efe := _ } q c _)).trans
    (overlapResult_withInterrupt _ q c _ _)

/-! ### The commands that read the input stream -/

/-- The outcome of an effect over other pending interrupts and other enables. -/
def effectWithInterrupt (q : IrqStatus) (c : Ctrl) : Except Err State → Except Err State
  | .error e => .error e
  | .ok u => .ok (u.withInterrupt q c)

theorem concludeStream_withInterrupt {s : State} (q : IrqStatus) (c : Ctrl) (chk : Check)
    {f f' : Unit → Except Err State} (hs : s.status.err = false) (hstatus : ∀ u, f () = .ok u → u.status = s.status)
    (hf : f' () = effectWithInterrupt q c (f ())) :
    (s.withInterrupt q c).concludeStream chk f' = mapNext (interruptOutcome q c) (s.concludeStream chk f) := by
  unfold State.concludeStream
  cases chk with
  | some e =>
    dsimp only
    rw [mapNext_next, interruptOutcome, State.completeErr_status, statusCompleteErr_err, Bool.or_true]
    rfl
  | none =>
    dsimp only
    rw [hf]
    cases hu : f () with
    | error e =>
      dsimp only [effectWithInterrupt]
      rw [mapNext_next, interruptOutcome, State.completeErr_status, statusCompleteErr_err, Bool.or_true]
      rfl
    | ok u =>
      have herr : u.status.err = false := hstatus u hu ▸ hs
      dsimp only [effectWithInterrupt]
      rw [mapNext_next, interruptOutcome, State.complete_status, statusComplete_err, herr, Bool.or_false]
      rfl

theorem ddNextEffect_withInterrupt (s : State) (q : IrqStatus) (c : Ctrl) :
    ddNextEffect (s.withInterrupt q c) = effectWithInterrupt q c (ddNextEffect s) := by
  have hfetch : ddFetch (s.withInterrupt q c) = ddFetch s := rfl
  unfold ddNextEffect
  rw [hfetch]
  cases ddFetch s <;> rfl

theorem ddSkipEffect_withInterrupt (s : State) (q : IrqStatus) (c : Ctrl) :
    ddSkipEffect (s.withInterrupt q c) = effectWithInterrupt q c (ddSkipEffect s) := by
  dsimp only [ddSkipEffect, State.withInterrupt]
  split
  · rfl
  · cases ddSkipTo s.dd s.args.a0.toNat s.mem s.inEnd.toNat s.inPtr.toNat <;> rfl

/-- The engine's operation depends neither on IRQ_STATUS nor on CTRL (60_exceptions R545). -/
theorem exec_withInterrupt (i : Instr) {s : State} (q : IrqStatus) (c : Ctrl) (hs : s.status.err = false) :
    exec i (s.withInterrupt q c) = mapNext (interruptOutcome q c) (exec i s) := by
  cases i
  case nop | unitReset | deInit | deInitMono | ddInit | ddInitMono | gbInit | gbInitMono | gwInit | gwResize | pgInit
    | pgResize | efdToBefore =>
    simp only [exec, execNop, execUnitReset, execDeInit, execDeInitMono, execDdInit, execDdInitMono, execGbInit,
      execGbInitMono, execGwInit, execGwResize, execPgInit, execPgResize, execEfdToBefore]
    exact conclude_withInterrupt q c _ hs rfl rfl
  case bpGeom | fsSelect | deAdd | deFinish | gbAdd | gbGet | gbIterReset | gwGet | gwSet | pgGet | pgSet | pgPageBpv
    | efdInit =>
    simp only [exec, execBpGeom, execFsSelect, execDeAdd, execDeFinish, execGbAdd, execGbGet, execGbIterReset,
      execGwGet, execGwSet, execPgGet, execPgSet, execPgPageBpv, execEfdInit]
    exact conclude_withInterrupt q c _ hs rfl rfl
  case bpDecLL | bpDecBL =>
    simp only [exec, execBpDecLL, execBpDecBL]
    exact conclude_withInterrupt q c _ hs (bpDecode_frame _ _ _ s).status (bpDecode_withInterrupt _ _ _ s q c)
  case bpEncLL | bpEncLB =>
    simp only [exec, execBpEncLL, execBpEncLB]
    exact conclude_withInterrupt q c _ hs (bpEncode_frame _ _ _ s).status (bpEncode_withInterrupt _ _ _ s q c)
  case gbIterNext =>
    simp only [exec, execGbIterNext]
    exact conclude_withInterrupt q c _ hs (gbIterStep_frame s).status (gbIterStep_withInterrupt s q c)
  case pgGrow =>
    simp only [exec, execPgGrow]
    exact conclude_withInterrupt q c _ hs (pgGrowEffect_frame s).status (pgGrowEffect_withInterrupt s q c)
  case efeInit =>
    simp only [exec, execEfeInit]
    exact conclude_withInterrupt q c _ hs (efeInitEffect_frame s).status (efeInitEffect_withInterrupt s q c)
  case efeEncode =>
    simp only [exec, execEfeEncode]
    exact conclude_withInterrupt q c _ hs (efeEncodeEffect_frame s).status (efeEncodeEffect_withInterrupt s q c)
  case efeFinish =>
    simp only [exec, execEfeFinish]
    exact conclude_withInterrupt q c _ hs (efeFinishEffect_frame s).status (efeFinishEffect_withInterrupt s q c)
  case efdNext | efdAdvance | efdPrev | efdBack =>
    simp only [exec, execEfdNext, execEfdAdvance, execEfdPrev, execEfdBack]
    exact conclude_withInterrupt q c _ hs (efdMove_frame s _).status (efdMove_withInterrupt s q c _)
  case efdToAfter =>
    simp only [exec, execEfdToAfter]
    exact conclude_withInterrupt q c _ hs (efdToAfterEffect_frame s).status (efdToAfterEffect_withInterrupt s q c)
  case efdCurrent =>
    simp only [exec, execEfdCurrent]
    exact conclude_withInterrupt q c _ hs (efdCurrentEffect_frame s).status (efdCurrentEffect_withInterrupt s q c)
  case ddNext =>
    simp only [exec, execDdNext]
    refine concludeStream_withInterrupt q c _ hs (fun u hu => ?_) (ddNextEffect_withInterrupt s q c)
    obtain ⟨d, p, -, rfl⟩ := ddNextEffect_ok hu
    rfl
  case ddSkip =>
    simp only [exec, execDdSkip]
    refine concludeStream_withInterrupt q c _ hs (fun u hu => ?_) (ddSkipEffect_withInterrupt s q c)
    obtain ⟨-, rfl⟩ | ⟨-, d, p, -, rfl⟩ := ddSkipEffect_ok hu <;> rfl

/-! ## An access of the host does not look at the inputs (60_exceptions R546) -/

/-- The state with other inputs still to come. -/
def State.withInputs (s : State) (l : List Input) : State := { s with inputs := l }

theorem havocRanges_withInputs (s : State) (l : List Input) (rs : List (Nat × Nat)) :
    (s.withInputs l).havocRanges rs = (s.havocRanges rs).withInputs l := by
  induction rs generalizing s with
  | nil => rfl
  | cons r t ih => exact ih (s.havoc r.1 r.2)

theorem runningWrites_withInputs (s : State) (l : List Input) : runningWrites (s.withInputs l) = runningWrites s := by
  unfold runningWrites State.withInputs
  cases decode s.cmd with
  | error e => rfl
  | ok i => cases i <;> rfl

theorem runningRanges_withInputs (s : State) (l : List Input) : runningRanges (s.withInputs l) = runningRanges s :=
  runningRanges_inputs s l

theorem withInputs_status (s : State) (l : List Input) : (s.withInputs l).status = s.status := rfl

theorem doReset_withInputs (s : State) (l : List Input) : (s.withInputs l).doReset = s.doReset.withInputs l := by
  unfold State.doReset
  rw [runningWrites_withInputs, havocRanges_withInputs, withInputs_status]
  split <;> rfl

theorem readReg_withInputs (r : WinReg) (s : State) (l : List Input) :
    readReg r (s.withInputs l) = (readReg r s).withInputs l := by
  have hval : regValue (s.withInputs l) r = regValue s r := regValue_inputs s l r
  unfold readReg
  rw [hval, withInputs_status]
  split <;> rfl

theorem writeReg_withInputs (r : WinReg) (v : Word) (s : State) (l : List Input) :
    writeReg r v (s.withInputs l) = (writeReg r v s).withInputs l := by
  cases r
  case ctrl =>
    dsimp only [writeReg]
    rw [doReset_withInputs]
    split <;> rfl
  case cmd | arg0 | arg1 | arg2 | arg3 | arg4 | arg5 | arg6 | arg7 | inPtr | inEnd | outPtr | outEnd =>
    dsimp only [writeReg, writeOperand]
    rw [withInputs_status]
    split <;> rfl
  all_goals rfl

theorem hostLoad_withInputs (s : State) (x n : Nat) (l : List Input) :
    hostLoad (s.withInputs l) x n = (hostLoad s x n).withInputs l := by
  unfold hostLoad
  rw [runningRanges_withInputs, withInputs_status]
  split <;> rfl

theorem disturbRanges_withInputs (s : State) (l : List Input) :
    (s.withInputs l).disturbRanges = s.disturbRanges.withInputs l := by
  unfold State.disturbRanges
  dsimp only
  rw [runningRanges_withInputs, havocRanges_withInputs]
  rfl

theorem hostStore_withInputs (s : State) (x n v : Nat) (l : List Input) :
    hostStore (s.withInputs l) x n v = (hostStore s x n v).withInputs l := by
  unfold hostStore
  rw [runningRanges_withInputs, withInputs_status]
  dsimp only
  split
  · exact disturbRanges_withInputs { s with mem := memWrite s.mem x n v } l
  · rfl

theorem windowAccess_withInputs (s reserved : State) (w : Nat) (addr : Word) (act act' : WinReg → State)
    (l : List Input) (hact : ∀ r, act' r = (act r).withInputs l) :
    windowAccess (s.withInputs l) w addr (reserved.withInputs l) act' =
      mapNext (State.withInputs · l) (windowAccess s w addr reserved act) := by
  have hoff : windowOffset (s.withInputs l).cfg addr = windowOffset s.cfg addr := rfl
  unfold windowAccess
  rw [hoff]
  dsimp only
  split
  · rfl
  · split
    · rfl
    · cases winReg (windowOffset s.cfg addr) with
      | none => rfl
      | some r => exact congrArg Host.Outcome.next (hact r)

theorem dataAccess_withInputs (s t : State) (x n : Nat) (l : List Input) :
    dataAccess (s.withInputs l) x n (t.withInputs l) = mapNext (State.withInputs · l) (dataAccess s x n t) :=
  (apply_ite (mapNext (State.withInputs · l)) (s.cfg.memBytes < x + n) (.fault (.hostDataAddressOutside x))
    (.next t)).symm

/-- What an access of the host does is the same whatever inputs are still to come. -/
theorem hostStep_withInputs (a : HostAccess) (s : State) (l : List Input) :
    hostStep a (s.withInputs l) = mapNext (State.withInputs · l) (hostStep a s) := by
  cases a with
  | regLoad w addr =>
    exact windowAccess_withInputs s { s with hostData := 0 } w addr _ _ l fun r => readReg_withInputs r s l
  | regStore w addr v => exact windowAccess_withInputs s s w addr _ _ l fun r => writeReg_withInputs r v s l
  | memLoadWord x =>
    rw [hostStep, hostLoad_withInputs, dataAccess_withInputs]
    rfl
  | memLoadByte x =>
    rw [hostStep, hostLoad_withInputs, dataAccess_withInputs]
    rfl
  | memStoreWord x v =>
    rw [hostStep, hostStore_withInputs, dataAccess_withInputs]
    rfl
  | memStoreByte x v =>
    rw [hostStep, hostStore_withInputs, dataAccess_withInputs]
    rfl

/-- An access in the step of a completion is the access and then the engine's turn (60_exceptions R546). -/
theorem step_hostAndEngine {s t : State} {a : HostAccess} {rest : List Input} (hb : s.status.busy = true)
    (hin : s.inputs = .hostAndEngine a :: rest)
    (h : step { s with inputs := .host a :: .engine :: rest } = .next t) : step s = step t := by
  have hhost : hostStep a (s.withInputs (.engine :: rest)) = .next t := h
  rw [hostStep_withInputs] at hhost
  cases hu : hostStep a s with
  | fault r => rw [hu] at hhost; cases hhost
  | refused r => rw [hu] at hhost; cases hhost
  | next u =>
    rw [hu] at hhost
    cases hhost
    have hboth : hostStep a (s.withInputs rest) = .next (u.withInputs rest) := by rw [hostStep_withInputs, hu]; rfl
    unfold step stepInputs
    rw [hin]
    show hostAndEngineStep a (s.withInputs rest) = engineTurn (u.withInputs rest)
    rw [hostAndEngineStep, withInputs_status, if_pos hb, hboth]

/-- A store that clears pending bits keeps a bit it does not name (10_state R38). -/
theorem irqClear_keeps {q : IrqStatus} {v : Word} :
    (q.doneIrq = true → v.getLsbD 0 = false → (irqClear q v).doneIrq = true) ∧
    (q.errIrq = true → v.getLsbD 1 = false → (irqClear q v).errIrq = true) := by
  constructor <;> intro hq hv <;> simp only [irqClear, hq, hv, Bool.not_false, Bool.and_self]

/-- Settles O11: the pending bits by what a step keeps, R545 and R546 by what the engine and the host do not look at. -/
theorem interruptOutput : Obligations.InterruptOutput := by
  refine ⟨fun s => by simp [irqLine], fun s t hlegal h hq => ?_, fun s t hlegal h hq => ?_,
    fun i s q c hs => exec_withInterrupt i q c hs, fun s t v rest hb hst h => ?_,
    fun s t a rest hb hin h => step_hostAndEngine hb hin h⟩
  · obtain hreset | ⟨rest, u, -, hirq, rfl | ⟨-, hc⟩⟩ := step_resets_or_keeps hlegal.2.1 h
    · exact .inr (.inr hreset)
    · obtain hirq | ⟨v, hv, hirq⟩ := hirq
      · exact .inl (hirq ▸ hq)
      · cases hbit : v.getLsbD 0 with
        | true => exact .inr (.inl ⟨v, hbit, hv⟩)
        | false => exact .inl (hirq ▸ irqClear_keeps.1 hq hbit)
    · exact .inl hc.doneIrq
  · obtain hreset | ⟨rest, u, -, hirq, ht⟩ := step_resets_or_keeps hlegal.2.1 h
    · exact .inr (.inr hreset)
    · have hkept : u.irq.errIrq = true → t.irq.errIrq = true := by
        obtain rfl | ⟨-, hc⟩ := ht
        · exact id
        · exact hc.errIrq_kept
      obtain hirq | ⟨v, hv, hirq⟩ := hirq
      · exact .inl (hkept (hirq ▸ hq))
      · cases hbit : v.getLsbD 1 with
        | true => exact .inr (.inl ⟨v, hbit, hv⟩)
        | false => exact .inl (hkept (hirq ▸ irqClear_keeps.2 hq hbit))
  · obtain ⟨hbase, hin⟩ := hst
    have hhost : hostStep (.regStore 8 (s.cfg.regBase + u64 0x030) v) (s.withInputs rest) =
        .next (writeReg .irqStatus v (s.withInputs rest)) :=
      windowAccess_at (s := s.withInputs rest) hbase (by decide) (by decide) _ _
    have hc : Completes (writeReg .irqStatus v (s.withInputs rest)) t := by
      refine engineTurn_completes hb ?_
      unfold step stepInputs at h
      rw [hin] at h
      change hostAndEngineStep _ (s.withInputs rest) = _ at h
      rwa [hostAndEngineStep, withInputs_status, if_pos hb, hhost] at h
    exact ⟨hc.busy, hc.doneIrq, hc.errIrq⟩

end Sys2Proof.Machine
end

section
/-! PROOFS. The data memory stays canonical and inside its bounds (20_memory R100, R105): what the checks of a command
find of the ranges it writes, and that its writes stay inside them: the arrays of the bit packer, the output stream, and
the regions of an Elias-Fano layout. -/

namespace Sys2Proof.Machine

/-! ## Memories that fit (20_memory R100) -/

/-- The memory is in its canonical form and lists no address at or past `b`. -/
structure MemoryFits (b : Nat) (m : Memory) : Prop where
  wf : m.wf
  below : ∀ c ∈ m, c.1 < b

namespace MemoryFits

variable {b a n : Nat} {m : Memory} {s : State} {rs : List (Nat × Nat)}

theorem number (h : MemoryFits b m) (hn : n = 0 ∨ a + n ≤ b) (v : Nat) : MemoryFits b (memWrite m a n v) :=
  ⟨memWrite_wf m a n v h.wf, memWrite_below m a n v b hn h.below⟩

theorem word (h : MemoryFits b m) (ha : a + 8 ≤ b) (v : Word) : MemoryFits b (writeWord m a v) := h.number (.inr ha) _

theorem words (h : MemoryFits b m) {vs : List Word} (hn : vs = [] ∨ a + 8 * vs.length ≤ b) :
    MemoryFits b (writeWords m a vs) :=
  ⟨writeWords_wf m a vs h.wf, writeWords_below m a b vs hn h.below⟩

theorem bytes (h : MemoryFits b m) {bs : List Byte} (hn : bs = [] ∨ a + bs.length ≤ b) :
    MemoryFits b (writeBytes m a bs) :=
  ⟨writeBytes_wf m a bs h.wf, writeBytes_below m a b bs hn h.below⟩

theorem havocRanges (h : MemoryFits s.cfg.memBytes s.mem) (hr : rangesInside s.cfg rs) :
    MemoryFits s.cfg.memBytes (s.havocRanges rs).mem :=
  ⟨havocRanges_wf s rs h.wf, havocRanges_below s rs hr h.below⟩

end MemoryFits

/-! ## Ranges inside the data memory (20_memory R105) -/

theorem rangesInside_nil (p : Params) : rangesInside p [] := nofun

theorem rangesInside_cons {p : Params} {a n : Nat} {rs : List (Nat × Nat)} :
    rangesInside p ((a, n) :: rs) ↔ (n = 0 ∨ a + n ≤ p.memBytes) ∧ rangesInside p rs := List.forall_mem_cons

theorem rangesInside_append {p : Params} {rs rs' : List (Nat × Nat)} :
    rangesInside p (rs ++ rs') ↔ rangesInside p rs ∧ rangesInside p rs' := List.forall_mem_append

/-- The ranges of a command are those its checks found, and none where they found an error. -/
theorem rangesInside_rangesIf {p : Params} {c : Check} {rs : List (Nat × Nat)} (h : c = none → rangesInside p rs) :
    rangesInside p (rangesIf c rs) := by
  cases c with
  | none => exact h rfl
  | some e => exact rangesInside_nil p

@[simp] theorem checkArray64_eq_none (p : Params) (a n : Nat) :
    checkArray64 p a n = none ↔ a % 8 = 0 ∧ a + 8 * n ≤ p.memBytes := by
  simp [checkArray64]

@[simp] theorem checkBytes_eq_none (p : Params) (a n : Nat) : checkBytes p a n = none ↔ a + n ≤ p.memBytes :=
  require_eq_none _ _ _

/-! ## The arrays of the bit packer (40_bitpack R202 to R206) -/

@[simp] theorem unlessNoIterations_eq_none (s : State) (c : Check) :
    unlessNoIterations s c = none ↔ (s.args.a4 ≠ 0 → c = none) := by
  unfold unlessNoIterations
  split <;> simp_all

/-- The source and the destination of a bit packer command are inside the data memory. -/
def BpInside (p : Params) (b : BpArrays) : Prop := rangesInside p [(b.src, b.srcBytes), (b.dst, b.dstBytes)]

theorem checkArray64_inside {p : Params} {a n : Nat} (h : checkArray64 p a (8 * n / 8) = none) :
    a + 8 * n ≤ p.memBytes := by
  rw [Nat.mul_div_cancel_left n (by decide)] at h
  exact ((checkArray64_eq_none p a n).1 h).2

theorem checkBytes_inside {p : Params} {a n : Nat} (h : checkBytes p a n = none) : a + n ≤ p.memBytes :=
  (checkBytes_eq_none p a n).1 h

/-- With iterations the checks say so; with none the arrays are empty. -/
theorem bpInside_of_check {s : State} {b : BpArrays} {width src dst : Check}
    (h : width.or (unlessNoIterations s (src.or dst)) = none)
    (h0 : s.args.a4 = 0 → b.srcBytes = 0 ∧ b.dstBytes = 0)
    (hsrc : src = none → b.src + b.srcBytes ≤ s.cfg.memBytes)
    (hdst : dst = none → b.dst + b.dstBytes ≤ s.cfg.memBytes) : BpInside s.cfg b := by
  simp only [Option.or_eq_none_iff, unlessNoIterations_eq_none] at h
  rw [BpInside, rangesInside_cons, rangesInside_cons]
  by_cases ha : s.args.a4 = 0
  · exact ⟨.inl (h0 ha).1, .inl (h0 ha).2, rangesInside_nil _⟩
  · exact ⟨.inr (hsrc (h.2 ha).1), .inr (hdst (h.2 ha).2), rangesInside_nil _⟩

section

variable {w : Nat} {f : Format} {s : State}

theorem bpInside_decLL (h : bpCheckDecLL w f s = none) : BpInside s.cfg (bpArraysDecLL w f s) :=
  bpInside_of_check h (fun h0 => by simp [bpArraysDecLL, h0]) checkArray64_inside checkArray64_inside

theorem bpInside_decBL (h : bpCheckDecBL w f s = none) : BpInside s.cfg (bpArraysDecBL w f s) :=
  bpInside_of_check h (fun h0 => by simp [bpArraysDecBL, h0]) checkBytes_inside checkArray64_inside

theorem bpInside_encLL (h : bpCheckEncLL w f s = none) : BpInside s.cfg (bpArraysEncLL w f s) :=
  bpInside_of_check h (fun h0 => by simp [bpArraysEncLL, h0]) checkArray64_inside checkArray64_inside

theorem bpInside_encLB (h : bpCheckEncLB w f s = none) : BpInside s.cfg (bpArraysEncLB w f s) :=
  bpInside_of_check h (fun h0 => by simp [bpArraysEncLB, h0]) checkArray64_inside checkBytes_inside

end

theorem BpInside.src {p : Params} {b : BpArrays} (h : BpInside p b) : rangesInside p [(b.src, b.srcBytes)] :=
  rangesInside_cons.2 ⟨(rangesInside_cons.1 h).1, rangesInside_nil p⟩

theorem BpInside.dst {p : Params} {b : BpArrays} (h : BpInside p b) : rangesInside p [(b.dst, b.dstBytes)] :=
  (rangesInside_cons.1 h).2

theorem length_unpackArray_le (f : Format) (w cnt nbytes arr : Nat) :
    (unpackArray f w cnt nbytes arr).length ≤ cnt := by
  cases f with
  | packed => simp [unpackArray, splitFields]
  | singleBlock => exact List.length_take_le _ _

theorem bpDecode_fits {w : Nat} {f : Format} {b : BpArrays} {s : State} (hm : MemoryFits s.cfg.memBytes s.mem)
    (hb : BpInside s.cfg b) (hv : b.dstBytes = 8 * b.values) : MemoryFits s.cfg.memBytes (bpDecode w f b s).mem := by
  unfold bpDecode
  split
  · exact hm.havocRanges hb.dst
  · refine hm.words ?_
    have hlen : (bpDecoded w f s.mem b).length ≤ b.values := by
      rw [bpDecoded, List.length_map]
      exact length_unpackArray_le ..
    obtain h0 | hin := (rangesInside_cons.1 hb.dst).1
    · exact .inl (List.eq_nil_of_length_eq_zero (by omega))
    · exact .inr (by omega)

theorem bpEncode_fits {w : Nat} {f : Format} {b : BpArrays} {s : State} (hm : MemoryFits s.cfg.memBytes s.mem)
    (hb : BpInside s.cfg b) : MemoryFits s.cfg.memBytes (bpEncode w f b s).mem := by
  unfold bpEncode
  split
  · exact hm.havocRanges hb.dst
  · exact hm.number (rangesInside_cons.1 hb.dst).1 _

/-! ## The byte streams (20_memory R112) -/

@[simp] theorem checkOut_eq_none (s : State) :
    checkOut s = none ↔ s.outPtr.toNat ≤ s.outEnd.toNat ∧ s.outEnd.toNat ≤ s.cfg.memBytes := require_eq_none _ _ _

@[simp] theorem checkIn_eq_none (s : State) :
    checkIn s = none ↔ s.inPtr.toNat ≤ s.inEnd.toNat ∧ s.inEnd.toNat ≤ s.cfg.memBytes := require_eq_none _ _ _

theorem inRange_inside {s : State} (h : checkIn s = none) : rangesInside s.cfg (inRange s) := by
  obtain ⟨hptr, hend⟩ := (checkIn_eq_none s).1 h
  exact rangesInside_cons.2 ⟨.inr (by omega), rangesInside_nil _⟩

theorem outRange_inside (s : State) : rangesInside s.cfg (outRange s) := rangesInside_rangesIf fun h => by
  obtain ⟨hptr, hend⟩ := (checkOut_eq_none s).1 ((checkWriter_eq_none s).1 h).2
  exact rangesInside_cons.2 ⟨.inr (by omega), rangesInside_nil _⟩

theorem emit_fits {s : State} {bs : List Byte} (hm : MemoryFits s.cfg.memBytes s.mem)
    (h : (checkWriter s).or (checkRoom s bs) = none) : MemoryFits s.cfg.memBytes (s.emit bs).mem := by
  obtain ⟨hwriter, hroom⟩ := Option.or_eq_none_iff.1 h
  obtain ⟨hptr, hend⟩ := (checkOut_eq_none s).1 ((checkWriter_eq_none s).1 hwriter).2
  have hroom : bs.length ≤ s.outEnd.toNat - s.outPtr.toNat := (require_eq_none _ _ _).1 hroom
  exact hm.bytes (.inr (by omega))

/-! ## Elias-Fano layouts (30_encoding R180, 46_ef_encoder R430) -/

/-- What `EFE_INIT` and `EFD_INIT` check of a layout, but for the alignment of its regions (46_ef_encoder R430). -/
structure EfLayoutOk (p : Params) (y : EfLayout) : Prop where
  bounds : y.u ≤ 2 ^ 63 - 1 ∧ 2 ≤ y.i ∧ y.n ≤ p.efMaxValues
  inside : rangesInside p (efRegions y)

theorem checkEfRegion_inside {p : Params} {base words : Nat} (h : checkEfRegion p base words = none) :
    8 * words = 0 ∨ base + 8 * words ≤ p.memBytes := by
  unfold checkEfRegion at h
  split at h
  · next h0 => exact .inl (by omega)
  · exact .inr ((checkArray64_eq_none ..).1 h).2

theorem efLayoutOk_of_check {p : Params} {y : EfLayout} (h : checkEfInit p y = none) : EfLayoutOk p y := by
  simp only [checkEfInit, checkEfParams, checkEfRegions, Option.or_eq_none_iff, require_eq_none] at h
  obtain ⟨⟨⟨hu, hi⟩, hn⟩, ⟨hub, hlb⟩, hib⟩ := h
  refine ⟨⟨hu, hi, hn⟩, ?_⟩
  rw [efRegions, rangesInside_cons, rangesInside_cons, rangesInside_cons]
  exact ⟨checkEfRegion_inside hub, checkEfRegion_inside hlb, checkEfRegion_inside hib, rangesInside_nil p⟩

namespace EfLayoutOk

variable {p : Params} {y : EfLayout}

theorem l_le (h : EfLayoutOk p y) : (efParamsOf y).l ≤ 64 := by
  have hu : y.u < 2 ^ 64 := by have := h.bounds.1; omega
  show efLowBits y.n y.u ≤ 64
  unfold efLowBits
  split
  · omega
  · exact (Nat.sub_le ..).trans (bitlen_le_of_lt ((Nat.div_le_self ..).trans_lt hu))

theorem h_le (y : EfLayout) : (efParamsOf y).h ≤ y.u := Nat.div_le_self ..

theorem e_le (h : EfLayoutOk p y) (hp : p.legal) : (efParamsOf y).e ≤ 64 := by
  obtain ⟨hu, -, hn⟩ := h.bounds
  obtain ⟨-, -, -, -, -, -, -, -, -, hmax⟩ := hp
  have := h_le y
  exact bitlen_le_of_lt (show y.n + (efParamsOf y).h < 2 ^ 64 by omega)

theorem nidx_lt (h : EfLayoutOk p y) : (efParamsOf y).nidx < 2 ^ 64 := by
  have hu := h.bounds.1
  have := h_le y
  exact lt_of_le_of_lt (Nat.div_le_self (efParamsOf y).h y.i) (by omega)

/-- Where there are index entries they have a width (30_encoding R180). -/
theorem e_pos (h : 0 < (efParamsOf y).nidx) : 0 < (efParamsOf y).e := by
  have hh : (efParamsOf y).h ≠ 0 := fun h0 => by
    change 0 < (efParamsOf y).h / y.i at h
    simp [h0] at h
  by_contra h0
  have hlt := lt_two_pow_bitlen (y.n + (efParamsOf y).h)
  have : bitlen (y.n + (efParamsOf y).h) = 0 := Nat.eq_zero_of_not_pos h0
  rw [this] at hlt
  omega

end EfLayoutOk

/-! ## Field writes of the encoder (46_ef_encoder R431) -/

theorem setUpperBit_fits {b ub t len : Nat} {m : Memory} (hm : MemoryFits b m) (ht : t < len)
    (hr : 8 * ceilDiv len 64 = 0 ∨ ub + 8 * ceilDiv len 64 ≤ b) : MemoryFits b (setUpperBit m ub t) := by
  unfold ceilDiv at hr
  exact hm.word (by omega) _

/-- Field `j` of an array of `c` fields of width `w` touches words of the array alone. -/
theorem putPacked_fits {b base w j c : Nat} {m : Memory} (hm : MemoryFits b m) (hw : 0 < w) (hj : j < c)
    (hr : 8 * ceilDiv (c * w) 64 = 0 ∨ base + 8 * ceilDiv (c * w) 64 ≤ b) (v : Nat) :
    MemoryFits b (putPacked m base w j v) := by
  have hend : j * w + w ≤ c * w := by
    rw [← Nat.succ_mul]
    exact Nat.mul_le_mul_right w hj
  unfold ceilDiv at hr
  exact hm.number (by omega) _

theorem putEntries_next_le (c : EfEncoder) (bound : Option Nat) (cnt k : Nat) (m : Memory) (next : Nat) :
    (putEntries c bound cnt k m next).2 ≤ next + k := by
  induction k generalizing m next with
  | zero => exact le_rfl
  | succ k ih =>
    unfold putEntries
    split
    · exact (ih _ _).trans (by omega)
    · exact Nat.le_add_right ..

theorem putEntries_fits {b cnt k next : Nat} {c : EfEncoder} {bound : Option Nat} {m : Memory}
    (hm : MemoryFits b m) (hk : next + k ≤ c.nidx.toNat) (he : 0 < c.nidx.toNat → 0 < c.e.toNat)
    (hr : 8 * ceilDiv (c.nidx.toNat * c.e.toNat) 64 = 0 ∨
      c.ib.toNat + 8 * ceilDiv (c.nidx.toNat * c.e.toNat) 64 ≤ b) :
    MemoryFits b (putEntries c bound cnt k m next).1 := by
  induction k generalizing m next with
  | zero => exact hm
  | succ k ih =>
    unfold putEntries
    split
    · exact ih (putPacked_fits hm (he (by omega)) (by omega : next < c.nidx.toNat) hr _) (by omega)
    · exact hm

/-! ## The Elias-Fano encoder (46_ef_encoder R433 to R435) -/

theorem efeInv_of_encoding {p : Params} {c : EfEncoder} (h : c.state = .encoding) : EfeInv p c ↔
    EfLayoutOk p (efeLayout c) ∧
    (c.l.toNat = (efParamsOf (efeLayout c)).l ∧ c.e.toNat = (efParamsOf (efeLayout c)).e ∧
      c.nidx.toNat = (efParamsOf (efeLayout c)).nidx) ∧
    (c.numEnc.toNat ≤ c.n.toNat ∧ c.last.toNat ≤ c.u.toNat ∧ c.next.toNat ≤ c.nidx.toNat) := by
  rw [EfeInv, forall_prop_of_true h]
  exact ⟨fun ⟨hb, hpar, hcnt, hin⟩ => ⟨⟨hb, hin⟩, hpar, hcnt⟩,
    fun ⟨hy, hpar, hcnt⟩ => ⟨hy.bounds, hpar, hcnt, hy.inside⟩⟩

theorem efeInv_of_not_encoding {p : Params} {c : EfEncoder} (h : c.state ≠ .encoding) : EfeInv p c :=
  fun he => absurd he h

theorem efeInv_efeInitContext {p : Params} {a : Args} (hp : p.legal) (h : checkEfInit p (efLayoutOfArgs a) = none) :
    EfeInv p (efeInitContext a) := by
  have hy := efLayoutOk_of_check h
  refine (efeInv_of_encoding rfl).2 ⟨hy, ⟨toNat_u64_of_le hy.l_le, toNat_u64_of_le (hy.e_le hp), ?_⟩, ?_⟩
  · exact (BitVec.toNat_ofNat ..).trans (Nat.mod_eq_of_lt hy.nidx_lt)
  · simp [efeInitContext]

/-- The three regions of the encoder's context (30_encoding R180), in terms of its fields. -/
theorem efeRegions_inside {p : Params} {c : EfEncoder} (h : c.state = .encoding) (hc : EfeInv p c) :
    (8 * ceilDiv (c.n.toNat + (efParamsOf (efeLayout c)).h) 64 = 0 ∨
      c.ub.toNat + 8 * ceilDiv (c.n.toNat + (efParamsOf (efeLayout c)).h) 64 ≤ p.memBytes) ∧
    (8 * ceilDiv (c.n.toNat * c.l.toNat) 64 = 0 ∨ c.lb.toNat + 8 * ceilDiv (c.n.toNat * c.l.toNat) 64 ≤ p.memBytes) ∧
    (8 * ceilDiv (c.nidx.toNat * c.e.toNat) 64 = 0 ∨
      c.ib.toNat + 8 * ceilDiv (c.nidx.toNat * c.e.toNat) 64 ≤ p.memBytes) := by
  obtain ⟨hy, ⟨hl, he, hnidx⟩, -⟩ := (efeInv_of_encoding h).1 hc
  have hin := hy.inside
  rw [efRegions, rangesInside_cons, rangesInside_cons, rangesInside_cons] at hin
  rw [hl, he, hnidx]
  exact ⟨hin.1, hin.2.1, hin.2.2.1⟩

theorem efe_e_pos {p : Params} {c : EfEncoder} (h : c.state = .encoding) (hc : EfeInv p c)
    (hn : 0 < c.nidx.toNat) : 0 < c.e.toNat := by
  obtain ⟨-, ⟨-, he, hnidx⟩, -⟩ := (efeInv_of_encoding h).1 hc
  rw [he]
  exact EfLayoutOk.e_pos (hnidx ▸ hn)

/-- The value a checked `EFE_ENCODE` encodes stays in the regions (46_ef_encoder R432). -/
theorem encodeValue_fits {p : Params} {c : EfEncoder} {x : Nat} {m : Memory} (h : c.state = .encoding)
    (hc : EfeInv p c) (hn : c.numEnc.toNat < c.n.toNat) (hx : x ≤ c.u.toNat) (hm : MemoryFits p.memBytes m) :
    MemoryFits p.memBytes (encodeValue c x m).1 := by
  obtain ⟨hub, hlb, hib⟩ := efeRegions_inside h hc
  obtain ⟨-, ⟨hl, -⟩, -, -, hnext⟩ := (efeInv_of_encoding h).1 hc
  have hhigh : efHigh c.l.toNat x ≤ (efParamsOf (efeLayout c)).h := by
    rw [hl]
    exact Nat.div_le_div_right hx
  have hupper : MemoryFits p.memBytes (setUpperBit m c.ub.toNat (c.numEnc.toNat + efHigh c.l.toNat x)) :=
    setUpperBit_fits hm (by omega) hub
  unfold encodeValue
  refine putEntries_fits ?_ (by omega) (efe_e_pos h hc) hib
  split
  · next hl0 => exact putPacked_fits hupper hl0 hn hlb _
  · exact hupper

theorem encodeValue_next_le {c : EfEncoder} (h : c.next.toNat ≤ c.nidx.toNat) (x : Nat) (m : Memory) :
    (encodeValue c x m).2 ≤ c.nidx.toNat :=
  (putEntries_next_le ..).trans (by omega)

theorem settleRegions_fits {s : State} {y : EfLayout} (hm : MemoryFits s.cfg.memBytes s.mem)
    (hy : rangesInside s.cfg (efRegions y)) : MemoryFits s.cfg.memBytes (s.settleRegions y).mem := by
  unfold State.settleRegions
  split
  · exact hm.havocRanges hy
  · exact hm

theorem overlapResult_mem (s : State) (y : EfLayout) (v : Word) : (s.overlapResult y v).mem = s.mem := by
  rw [overlapResult_eq]

theorem zeroRegions_fits {p : Params} {y : EfLayout} {m : Memory} (hm : MemoryFits p.memBytes m)
    (hy : rangesInside p (efRegions y)) : MemoryFits p.memBytes (zeroRegions m y) := by
  rw [efRegions, rangesInside_cons, rangesInside_cons, rangesInside_cons] at hy
  obtain ⟨hub, hlb, hib, -⟩ := hy
  exact ((hm.number hub 0).number hlb 0).number hib 0

@[simp] theorem checkEfeEncoding_eq_none (s : State) : checkEfeEncoding s = none ↔ s.efe.state = .encoding := by
  cases hs : s.efe.state <;> simp [checkEfeEncoding, hs]

/-- What the checks of `EFE_ENCODE` leave (46_ef_encoder R434). -/
theorem efeEncodeCheck_eq_none (s : State) : efeEncodeCheck s = none ↔
    ((s.efe.state = .encoding ∧ s.efe.numEnc ≠ s.efe.n) ∧
      (s.efe.numEnc = 0 ∨ s.efe.last.toNat ≤ s.args.a0.toNat)) ∧ s.args.a0.toNat ≤ s.efe.u.toNat := by
  simp only [efeEncodeCheck, Option.or_eq_none_iff, require_eq_none, checkEfeEncoding_eq_none]

theorem efeFinishCheck_eq_none (s : State) :
    efeFinishCheck s = none ↔ s.efe.state = .encoding ∧ s.efe.numEnc = s.efe.n := by
  simp only [efeFinishCheck, Option.or_eq_none_iff, require_eq_none, checkEfeEncoding_eq_none]

end Sys2Proof.Machine
end

section
/-! PROOFS. Every step keeps the data memory and the regions of the Elias-Fano contexts as the spec has them (20_memory
R100, R105, 70_reset R590). -/

namespace Sys2Proof.Machine

/-! ## The Elias-Fano contexts (10_state R52, R53) -/

theorem EffectFrame.efContexts {k : CommandUnit} {s u : State} (h : EffectFrame k s u) :
    (k = .efEncoder ∨ u.efe = s.efe ∨ u.efe = {}) ∧ (k = .efDecoder ∨ u.efd = s.efd ∨ u.efd = {}) := by
  cases k <;> rw [h]
  case everyContext => exact ⟨.inr (ite_eq_or_eq _ _ _).symm, .inr (ite_eq_or_eq _ _ _).symm⟩
  all_goals simp

theorem exec_efContexts {i : Instr} {s t : State} (h : exec i s = .next t) :
    (unitOf i = .efEncoder ∨ t.efe = s.efe ∨ t.efe = {}) ∧ (unitOf i = .efDecoder ∨ t.efd = s.efd ∨ t.efd = {}) := by
  obtain ⟨u, hu, -, rfl⟩ | ⟨e, v, rfl⟩ | ⟨hi, e, v, rfl⟩ := exec_cases i s t h
  · exact hu.efContexts
  · simp
  · simp [hi]

theorem efeInitEffect_efe (s : State) : (efeInitEffect s).efe = efeInitContext s.args := by
  unfold efeInitEffect
  dsimp only
  rw [settleRegions_eq]
  rfl

theorem efeEncodeEffect_efe (s : State) : (efeEncodeEffect s).efe =
    { s.efe with last := s.args.a0, numEnc := s.efe.numEnc + 1,
                 next := u64 (encodeValue s.efe s.args.a0.toNat s.mem).2 } := by
  unfold efeEncodeEffect
  dsimp only
  rw [overlapResult_eq, settleRegions_eq]

theorem efeFinishEffect_efe_state (s : State) : (efeFinishEffect s).efe.state = .finished := by
  unfold efeFinishEffect
  dsimp only
  rw [overlapResult_eq, settleRegions_eq]

theorem numEnc_lt_of_check {s : State} (hs : EfeInv s.cfg s.efe) (hc : efeEncodeCheck s = none) :
    s.efe.numEnc.toNat < s.efe.n.toNat := by
  obtain ⟨⟨⟨hstate, hn⟩, -⟩, -⟩ := (efeEncodeCheck_eq_none s).1 hc
  obtain ⟨-, -, hle, -⟩ := (efeInv_of_encoding hstate).1 hs
  exact lt_of_le_of_ne hle fun he => hn (BitVec.eq_of_toNat_eq he)

theorem efeInv_efeEncodeEffect {s : State} (hs : EfeInv s.cfg s.efe) (hc : efeEncodeCheck s = none) :
    EfeInv s.cfg (efeEncodeEffect s).efe := by
  obtain ⟨⟨⟨hstate, -⟩, -⟩, hu⟩ := (efeEncodeCheck_eq_none s).1 hc
  obtain ⟨hy, hparams, -, -, hnext⟩ := (efeInv_of_encoding hstate).1 hs
  have hn := numEnc_lt_of_check hs hc
  have hidx := encodeValue_next_le hnext s.args.a0.toNat s.mem
  have hidx64 := s.efe.nidx.isLt
  rw [efeEncodeEffect_efe]
  refine (efeInv_of_encoding (by exact hstate)).2 ⟨hy, hparams, ?_, hu, ?_⟩
  · rw [toNat_add_one_of_lt hn s.efe.n.isLt]
    exact hn
  · rw [BitVec.toNat_ofNat]
    exact (Nat.mod_le ..).trans hidx

/-- What a rejection and the effect of a command have, its outcome has. -/
theorem conclude_keeps {P : State → Prop} {s t : State} {c : Check} {f : Unit → State}
    (h : s.conclude c f = .next t) (hs : ∀ e v, P (s.completeErr e v)) (hf : c = none → P (f ()).complete) : P t := by
  obtain ⟨hc, rfl⟩ | ⟨e, -, rfl⟩ := conclude_cases s t c f h
  · exact hf hc
  · exact hs _ _

theorem exec_keeps_efeInv {i : Instr} {s t : State} (hp : s.cfg.legal) (hs : EfeInv s.cfg s.efe)
    (h : exec i s = .next t) : EfeInv s.cfg t.efe := by
  obtain hi | he | he := (exec_efContexts h).1
  · cases i
    case efeInit =>
      simp only [exec, execEfeInit] at h
      refine conclude_keeps (P := fun u => EfeInv s.cfg u.efe) h (fun _ _ => hs) fun hc => ?_
      rw [State.complete_efe, efeInitEffect_efe]
      exact efeInv_efeInitContext hp hc
    case efeEncode =>
      simp only [exec, execEfeEncode] at h
      exact conclude_keeps (P := fun u => EfeInv s.cfg u.efe) h (fun _ _ => hs) (efeInv_efeEncodeEffect hs)
    case efeFinish =>
      simp only [exec, execEfeFinish] at h
      refine conclude_keeps (P := fun u => EfeInv s.cfg u.efe) h (fun _ _ => hs) fun _ => ?_
      exact efeInv_of_not_encoding (by rw [State.complete_efe, efeFinishEffect_efe_state]; decide)
    all_goals cases hi
  · rw [he]
    exact hs
  · rw [he]
    exact efeInv_of_not_encoding (by decide)

theorem efdInv_of_ready {p : Params} {c : EfDecoder} (h : c.state = .ready) : EfdInv p c ↔
    EfLayoutOk p (efdLayout c) ∧
    (c.l.toNat = (efParamsOf (efdLayout c)).l ∧ c.e.toNat = (efParamsOf (efdLayout c)).e) := by
  rw [EfdInv, forall_prop_of_true h]
  exact ⟨fun ⟨hb, hpar, hin⟩ => ⟨⟨hb, hin⟩, hpar⟩, fun ⟨hy, hpar⟩ => ⟨hy.bounds, hpar, hy.inside⟩⟩

theorem efdInv_efdInitContext {p : Params} {a : Args} (hp : p.legal) (h : checkEfInit p (efLayoutOfArgs a) = none) :
    EfdInv p (efdInitContext a) := by
  have hy := efLayoutOk_of_check h
  exact (efdInv_of_ready rfl).2 ⟨hy, toNat_u64_of_le hy.l_le, toNat_u64_of_le (hy.e_le hp)⟩

/-- The decoder's context but for the cursor and the direction (47_ef_decoder R472). -/
def SameEncoding (c d : EfDecoder) : Prop := d = { c with idx := d.idx, hp := d.hp, dir := d.dir }

theorem SameEncoding.efdInv {p : Params} {c d : EfDecoder} (h : SameEncoding c d) (hc : EfdInv p c) : EfdInv p d := by
  rw [h]
  exact hc

theorem efdMove_sameEncoding (s : State) (target : List Nat → Int) : SameEncoding s.efd (s.efdMove target).efd := by
  unfold State.efdMove
  split <;> rfl

theorem efdToAfterEffect_sameEncoding (s : State) : SameEncoding s.efd (efdToAfterEffect s).efd := by
  unfold efdToAfterEffect
  split <;> rfl

theorem efdCurrentEffect_sameEncoding (s : State) : SameEncoding s.efd (efdCurrentEffect s).efd := by
  unfold efdCurrentEffect
  split <;> rfl

theorem conclude_efdInv {s t : State} {c : Check} {f : Unit → State} (h : s.conclude c f = .next t)
    (hs : EfdInv s.cfg s.efd) (hf : c = none → EfdInv s.cfg (f ()).efd) : EfdInv s.cfg t.efd :=
  conclude_keeps (P := fun u => EfdInv s.cfg u.efd) h (fun _ _ => hs) hf

theorem exec_keeps_efdInv {i : Instr} {s t : State} (hp : s.cfg.legal) (hs : EfdInv s.cfg s.efd)
    (h : exec i s = .next t) : EfdInv s.cfg t.efd := by
  obtain hi | he | he := (exec_efContexts h).2
  · cases i
    case efdInit =>
      simp only [exec, execEfdInit] at h
      exact conclude_efdInv h hs (efdInv_efdInitContext hp)
    case efdNext | efdAdvance | efdPrev | efdBack =>
      simp only [exec, execEfdNext, execEfdAdvance, execEfdPrev, execEfdBack] at h
      exact conclude_efdInv h hs fun _ => (efdMove_sameEncoding s _).efdInv hs
    case efdToBefore =>
      simp only [exec, execEfdToBefore] at h
      exact conclude_efdInv h hs fun _ => hs
    case efdToAfter =>
      simp only [exec, execEfdToAfter] at h
      exact conclude_efdInv h hs fun _ => (efdToAfterEffect_sameEncoding s).efdInv hs
    case efdCurrent =>
      simp only [exec, execEfdCurrent] at h
      exact conclude_efdInv h hs fun _ => (efdCurrentEffect_sameEncoding s).efdInv hs
    all_goals cases hi
  · rw [he]
    exact hs
  · rw [he]
    exact nofun

/-- The device is legal and the regions of both Elias-Fano contexts lie in its data memory (20_memory R105). -/
def EfContextsInv (s : State) : Prop := s.cfg.legal ∧ EfeInv s.cfg s.efe ∧ EfdInv s.cfg s.efd

theorem efContextsInv_contextInvariant : ContextInvariant EfContextsInv where
  congr _ _ h hs := by rwa [EfContextsInv, h.cfg, h.efe, h.efd]
  reset _ hs := ⟨hs.1, nofun, nofun⟩
  exec _ _ _ hs h := by
    rw [EfContextsInv, exec_cfg h]
    exact ⟨hs.1, exec_keeps_efeInv hs.1 hs.2.1 h, exec_keeps_efdInv hs.1 hs.2.2 h⟩

/-! ## The data memory after a command (20_memory R101) -/

theorem EffectFrame.memory {k : CommandUnit} {s u : State} (h : EffectFrame k s u) :
    (k = .noContext ∨ k = .deltaEncoder ∨ k = .efEncoder) ∨ u.mem = s.mem := by
  cases k <;> rw [h]
  case everyContext => exact .inr rfl
  all_goals simp

theorem exec_memory {i : Instr} {s t : State} (h : exec i s = .next t) :
    (unitOf i = .noContext ∨ unitOf i = .deltaEncoder ∨ unitOf i = .efEncoder) ∨ t.mem = s.mem := by
  obtain ⟨u, hu, -, rfl⟩ | ⟨e, v, rfl⟩ | ⟨-, e, v, rfl⟩ := exec_cases i s t h
  · exact hu.memory
  · exact .inr rfl
  · exact .inr rfl

theorem exec_hazard {i : Instr} {s t : State} (h : exec i s = .next t) : t.hazard = s.hazard := by
  obtain ⟨u, hu, -, rfl⟩ | ⟨e, v, rfl⟩ | ⟨-, e, v, rfl⟩ := exec_cases i s t h
  · rw [State.complete_hazard, hu.confined]
  · rfl
  · rfl

theorem efeInitEffect_fits {s : State} (hc : checkEfInit s.cfg (efLayoutOfArgs s.args) = none)
    (hm : MemoryFits s.cfg.memBytes s.mem) : MemoryFits s.cfg.memBytes (efeInitEffect s).mem := by
  have hy := (efLayoutOk_of_check hc).inside
  unfold efeInitEffect
  simp only [State.setRes0_mem, State.setRes1_mem, State.setRes2_mem, State.setRes3_mem]
  exact settleRegions_fits (s := { s with mem := _, efe := _ }) (zeroRegions_fits hm hy) hy

theorem efeEncodeEffect_fits {s : State} (hs : EfeInv s.cfg s.efe) (hc : efeEncodeCheck s = none)
    (hm : MemoryFits s.cfg.memBytes s.mem) : MemoryFits s.cfg.memBytes (efeEncodeEffect s).mem := by
  obtain ⟨⟨⟨hstate, -⟩, -⟩, hu⟩ := (efeEncodeCheck_eq_none s).1 hc
  unfold efeEncodeEffect
  rw [overlapResult_mem]
  exact settleRegions_fits (s := { s with mem := _, efe := _ })
    (encodeValue_fits hstate hs (numEnc_lt_of_check hs hc) hu hm) ((efeInv_of_encoding hstate).1 hs).1.inside

theorem efeFinishEffect_fits {s : State} (hs : EfeInv s.cfg s.efe) (hc : efeFinishCheck s = none)
    (hm : MemoryFits s.cfg.memBytes s.mem) : MemoryFits s.cfg.memBytes (efeFinishEffect s).mem := by
  obtain ⟨hstate, -⟩ := (efeFinishCheck_eq_none s).1 hc
  obtain ⟨hy, -, -, -, hnext⟩ := (efeInv_of_encoding hstate).1 hs
  unfold efeFinishEffect
  rw [overlapResult_mem]
  exact settleRegions_fits (s := { s with mem := _, efe := _ })
    (putEntries_fits hm (by omega) (efe_e_pos hstate hs) (efeRegions_inside hstate hs).2.2) hy.inside

theorem conclude_fits {s t : State} {c : Check} {f : Unit → State} (h : s.conclude c f = .next t)
    (hm : MemoryFits s.cfg.memBytes s.mem) (hf : c = none → MemoryFits s.cfg.memBytes (f ()).mem) :
    MemoryFits s.cfg.memBytes t.mem :=
  conclude_keeps (P := fun u => MemoryFits s.cfg.memBytes u.mem) h (fun _ _ => hm) hf

theorem exec_keeps_memoryFits {i : Instr} {s t : State} (hs : EfContextsInv s) (hm : MemoryFits s.cfg.memBytes s.mem)
    (h : exec i s = .next t) : MemoryFits s.cfg.memBytes t.mem := by
  obtain ⟨-, hefe, -⟩ := hs
  obtain hi | hmem := exec_memory h
  · cases i
    case bpDecLL =>
      simp only [exec, execBpDecLL] at h
      exact conclude_fits h hm fun hc => bpDecode_fits hm (bpInside_decLL hc) rfl
    case bpDecBL =>
      simp only [exec, execBpDecBL] at h
      exact conclude_fits h hm fun hc => bpDecode_fits hm (bpInside_decBL hc) rfl
    case bpEncLL =>
      simp only [exec, execBpEncLL] at h
      exact conclude_fits h hm fun hc => bpEncode_fits hm (bpInside_encLL hc)
    case bpEncLB =>
      simp only [exec, execBpEncLB] at h
      exact conclude_fits h hm fun hc => bpEncode_fits hm (bpInside_encLB hc)
    case deAdd | deFinish =>
      simp only [exec, execDeAdd, execDeFinish] at h
      exact conclude_fits h hm (emit_fits hm)
    case efeInit =>
      simp only [exec, execEfeInit] at h
      exact conclude_fits h hm fun hc => efeInitEffect_fits hc hm
    case efeEncode =>
      simp only [exec, execEfeEncode] at h
      exact conclude_fits h hm fun hc => efeEncodeEffect_fits hefe hc hm
    case efeFinish =>
      simp only [exec, execEfeFinish] at h
      exact conclude_fits h hm fun hc => efeFinishEffect_fits hefe hc hm
    case nop | fsSelect | bpGeom | deInit | deInitMono =>
      simp only [exec, execNop, execFsSelect, execBpGeom, execDeInit, execDeInitMono] at h
      exact conclude_fits h hm fun _ => hm
    all_goals simp [unitOf] at hi
  · rw [hmem]
    exact hm

/-! ## The ranges a running command uses (70_reset R590, R591) -/

theorem writeRanges_inside (i : Instr) {s : State} (hs : EfContextsInv s) : rangesInside s.cfg (writeRanges i s) := by
  obtain ⟨-, hefe, -⟩ := hs
  cases i
  case bpDecLL => exact rangesInside_rangesIf fun hc => (bpInside_decLL hc).dst
  case bpDecBL => exact rangesInside_rangesIf fun hc => (bpInside_decBL hc).dst
  case bpEncLL => exact rangesInside_rangesIf fun hc => (bpInside_encLL hc).dst
  case bpEncLB => exact rangesInside_rangesIf fun hc => (bpInside_encLB hc).dst
  case deAdd =>
    dsimp only [writeRanges]
    split
    · exact outRange_inside s
    · exact rangesInside_nil _
  case deFinish =>
    dsimp only [writeRanges]
    split
    · exact rangesInside_nil _
    · exact outRange_inside s
  case efeInit => exact rangesInside_rangesIf fun hc => (efLayoutOk_of_check hc).inside
  case efeEncode =>
    refine rangesInside_rangesIf fun hc => ?_
    obtain ⟨⟨⟨hstate, -⟩, -⟩, -⟩ := (efeEncodeCheck_eq_none s).1 hc
    exact ((efeInv_of_encoding hstate).1 hefe).1.inside
  case efeFinish =>
    refine rangesInside_rangesIf fun hc => ?_
    obtain ⟨hstate, -⟩ := (efeFinishCheck_eq_none s).1 hc
    exact ((efeInv_of_encoding hstate).1 hefe).1.inside
  all_goals exact rangesInside_nil _

@[simp] theorem checkEfdReady_eq_none (s : State) : checkEfdReady s = none ↔ s.efd.state = .ready :=
  require_eq_none _ _ _

theorem efdReadRanges_inside {s : State} {c : Check} (hs : EfdInv s.cfg s.efd)
    (hc : c = none → checkEfdReady s = none) : rangesInside s.cfg (efdReadRanges s c) :=
  rangesInside_rangesIf fun h => ((efdInv_of_ready ((checkEfdReady_eq_none s).1 (hc h))).1 hs).1.inside

theorem readRanges_inside (i : Instr) {s : State} (hs : EfContextsInv s) : rangesInside s.cfg (readRanges i s) := by
  obtain ⟨-, -, hefd⟩ := hs
  cases i
  case bpDecLL => exact rangesInside_rangesIf fun hc => (bpInside_decLL hc).src
  case bpDecBL => exact rangesInside_rangesIf fun hc => (bpInside_decBL hc).src
  case bpEncLL => exact rangesInside_rangesIf fun hc => (bpInside_encLL hc).src
  case bpEncLB => exact rangesInside_rangesIf fun hc => (bpInside_encLB hc).src
  case ddNext => exact rangesInside_rangesIf fun hc => inRange_inside (Option.or_eq_none_iff.1 hc).2
  case ddSkip =>
    dsimp only [readRanges]
    split
    · exact rangesInside_nil _
    · next h0 =>
      refine rangesInside_rangesIf fun hc => inRange_inside ?_
      simpa only [if_neg h0] using (Option.or_eq_none_iff.1 hc).2
  case efdNext | efdAdvance | efdPrev | efdBack =>
    exact efdReadRanges_inside hefd fun hc => (Option.or_eq_none_iff.1 hc).1
  case efdToAfter | efdCurrent => exact efdReadRanges_inside hefd id
  all_goals exact rangesInside_nil _

theorem runningWrites_inside {s : State} (hs : EfContextsInv s) : rangesInside s.cfg (runningWrites s) := by
  unfold runningWrites
  split
  · exact writeRanges_inside _ hs
  · exact rangesInside_nil _

theorem runningRanges_inside {s : State} (hs : EfContextsInv s) : rangesInside s.cfg (runningRanges s) := by
  unfold runningRanges
  split
  · exact rangesInside_append.2 ⟨writeRanges_inside _ hs, readRanges_inside _ hs⟩
  · exact rangesInside_nil _

/-! ## The data memory and the hazards, along a step -/

/-- An access to the data memory that answers lies inside it (20_memory R100). -/
theorem dataAccess_inside {s t u : State} {a n : Nat} (h : dataAccess s a n u = .next t) : a + n ≤ s.cfg.memBytes := by
  unfold dataAccess at h
  split at h
  · cases h
  · omega

/-- The data memory is canonical and inside its bounds, the hazards lie in it, and there are none while no command runs
(20_memory R100, R105, 70_reset R590). -/
structure MemorySound (s : State) : Prop where
  fits : MemoryFits s.cfg.memBytes s.mem
  ranges : rangesInside s.cfg s.hazard.ranges
  idle : HazardInv s

namespace MemorySound

variable {s t : State}

theorem withInputs (h : MemorySound s) (rest : List Input) : MemorySound { s with inputs := rest } := ⟨h.1, h.2, h.3⟩

theorem doReset (h : MemorySound s) (hs : EfContextsInv s) : MemorySound s.doReset := by
  unfold State.doReset
  split
  · refine ⟨?_, rangesInside_nil _, fun _ => rfl⟩
    show MemoryFits (s.havocRanges (runningWrites s)).cfg.memBytes (s.havocRanges (runningWrites s)).mem
    rw [State.havocRanges_cfg]
    exact h.fits.havocRanges (runningWrites_inside hs)
  · exact ⟨h.fits, rangesInside_nil _, fun _ => rfl⟩

/-- The hazards the host commits against a running command are ranges that command uses (70_reset R590). -/
theorem disturbRanges (h : MemorySound s) (hs : EfContextsInv s) (hb : s.status.busy = true) :
    MemorySound s.disturbRanges := by
  have hrun := runningRanges_inside hs
  refine ⟨?_, ?_, fun hi => ?_⟩
  · show MemoryFits (s.havocRanges (runningRanges s)).cfg.memBytes (s.havocRanges (runningRanges s)).mem
    rw [State.havocRanges_cfg]
    exact h.fits.havocRanges hrun
  · show rangesInside (s.havocRanges (runningRanges s)).cfg (s.hazard.ranges ++ runningRanges s)
    rw [State.havocRanges_cfg]
    exact rangesInside_append.2 ⟨h.ranges, hrun⟩
  · change (s.havocRanges (runningRanges s)).status.busy = false at hi
    rw [State.havocRanges_status] at hi
    exact absurd (hi.symm.trans hb) Bool.false_ne_true

theorem hostStore (h : MemorySound s) (hs : EfContextsInv s) {a n : Nat} (ha : a + n ≤ s.cfg.memBytes) (v : Nat) :
    MemorySound (hostStore s a n v) := by
  have hstored : MemorySound { s with mem := memWrite s.mem a n v } := ⟨h.fits.number (.inr ha) v, h.ranges, h.idle⟩
  unfold Machine.hostStore
  dsimp only
  split
  · next hb => exact hstored.disturbRanges hs (Bool.and_eq_true_iff.1 hb).1
  · exact hstored

theorem registerEffect (h : MemorySound s) (hs : EfContextsInv s) {v : Word} {r : WinReg}
    (ht : RegisterEffect s v r t) : MemorySound t := by
  cases ht with
  | reset => exact h.doReset hs
  | accepted hb => exact ⟨h.fits, h.ranges, fun _ => h.idle hb⟩
  | disturbed r hb => exact ⟨h.fits, h.ranges, fun hi => absurd (hi.symm.trans hb) Bool.false_ne_true⟩
  | ignored | dropped | ctrl | statusClr | irqStatus | operand => exact ⟨h.fits, h.ranges, h.idle⟩

theorem hostStep (h : MemorySound s) (hs : EfContextsInv s) {a : HostAccess} (ht : hostStep a s = .next t) :
    MemorySound t := by
  cases hostStep_effect ht with
  | noStore => exact ⟨h.fits, h.ranges, h.idle⟩
  | register addr v r hr => exact h.registerEffect hs (writeReg_effect r v s)
  | word x v => exact h.hostStore hs (dataAccess_inside ht) _
  | byte x v => exact h.hostStore hs (dataAccess_inside ht) _

/-- Settled ranges inside the data memory hold free values, and no hazard is left (70_reset R590). -/
theorem of_settledRanges (hm : MemoryFits s.cfg.memBytes s.mem) {rs : List (Nat × Nat)} (hr : rangesInside s.cfg rs) :
    MemorySound { (if rs.isEmpty then s else (s.havocRanges rs).havocResults) with hazard := {} } := by
  refine ⟨?_, rangesInside_nil _, fun _ => rfl⟩
  split
  · exact hm
  · show MemoryFits (s.havocRanges rs).cfg.memBytes (s.havocRanges rs).mem
    rw [State.havocRanges_cfg]
    exact hm.havocRanges hr

theorem settleHazards (hm : MemoryFits s.cfg.memBytes s.mem) (hr : rangesInside s.cfg s.hazard.ranges) :
    MemorySound s.settleHazards := by
  unfold State.settleHazards
  dsimp only
  cases s.hazard.operands with
  | true => exact of_settledRanges (s := s.havocOperands) hm hr
  | false => exact of_settledRanges hm hr

theorem engineTurn (h : MemorySound s) (hs : EfContextsInv s) (ht : engineTurn s = .next t) : MemorySound t := by
  obtain ⟨-, rfl⟩ | ⟨-, u, hu, rfl⟩ := engineTurn_next ht
  · exact h
  · obtain ⟨i, hu⟩ | rfl := hu
    · refine settleHazards ?_ ?_
      · rw [exec_cfg hu]
        exact exec_keeps_memoryFits hs h.fits hu
      · rw [exec_cfg hu, exec_hazard hu]
        exact h.ranges
    · exact settleHazards h.fits h.ranges

theorem step (h : MemorySound s) (hs : EfContextsInv s) (ht : step s = .next t) : MemorySound t := by
  have hinputs : ∀ rest, EfContextsInv { s with inputs := rest } := fun _ => hs
  obtain ⟨rest, -, hx⟩ | ⟨a, rest, -, hx⟩ | ⟨a, rest, -, hx⟩ | ⟨rest, -, hx⟩ := step_cases s <;> rw [hx] at ht
  · exact (h.withInputs rest).engineTurn (hinputs rest) ht
  · exact (h.withInputs rest).hostStep (hinputs rest) ht
  · obtain ⟨-, hu⟩ | ⟨-, u, hu, hut⟩ := hostAndEngineStep_cases a _ t ht
    · exact (h.withInputs rest).hostStep (hinputs rest) hu
    · exact ((h.withInputs rest).hostStep (hinputs rest) hu).engineTurn
        (efContextsInv_contextInvariant.hostStep (hinputs rest) hu) hut
  · cases ht
    exact (h.withInputs rest).doReset (hinputs rest)

end MemorySound

/-- Settles O56: the contexts keep their regions inside the data memory, so every write of a step stays inside it. -/
theorem stepKeepsMemoryInv : Obligations.StepKeepsMemoryInv := by
  intro s t ⟨hlegal, hwf, hbelow, hranges, hefe, hefd⟩ hidle h
  have hs : EfContextsInv s := ⟨hlegal, hefe, hefd⟩
  have hsound : MemorySound s := ⟨⟨hwf, hbelow⟩, hranges, hidle⟩
  obtain ⟨hlegal', hefe', hefd'⟩ := efContextsInv_contextInvariant.step hs h
  obtain ⟨⟨hwf', hbelow'⟩, hranges', hidle'⟩ := hsound.step hs h
  exact ⟨⟨hlegal', hwf', hbelow', hranges', hefe', hefd'⟩, hidle'⟩

end Sys2Proof.Machine
end

section
/-! PROOFS. The byte order of the data memory (20_memory R102, R103) and the host's 64-bit accesses (30_encoding
R190). -/

namespace Sys2Proof.Machine

/-! ## Numbers as bytes, most significant first -/

/-- Byte `j` of an `n`-byte number that is written: the `n - 1 - j` bytes below it are divided away. -/
theorem readByte_memWrite {m : Memory} (hm : m.wf) (a : Nat) {n j : Nat} (hj : j < n) (v : Nat) :
    readByte (memWrite m a n v) (a + j) = BitVec.ofNat 8 (v / 256 ^ (n - 1 - j)) := by
  induction n generalizing v with
  | zero => omega
  | succ n ih =>
    rw [memWrite]
    obtain rfl | hlt := Nat.eq_or_lt_of_le (Nat.le_of_lt_succ hj)
    · rw [readByte_writeByte_same _ _ _ (memWrite_wf m a j _ hm)]
      simp
    · rw [readByte_writeByte_other _ _ _ _ (by omega), ih hlt, Nat.div_div_eq_div_mul, ← Nat.pow_succ']
      congr 4
      omega

/-- Byte `j` of an `n`-byte number that is read. -/
theorem memRead_div_pow (m : Memory) (a : Nat) {n j : Nat} (hj : j < n) :
    memRead m a n / 256 ^ (n - 1 - j) % 256 = (readByte m (a + j)).toNat := by
  induction n with
  | zero => omega
  | succ n ih =>
    rw [memRead]
    obtain rfl | hlt := Nat.eq_or_lt_of_le (Nat.le_of_lt_succ hj)
    · have hbyte := (readByte m (a + j)).isLt
      simp
      omega
    · have hbyte := (readByte m (a + n)).isLt
      rw [← ih hlt, show n + 1 - 1 - j = n - 1 - j + 1 by omega, Nat.pow_succ', ← Nat.div_div_eq_div_mul]
      congr 2
      omega

/-- The bit offset of byte `j` of a 64-bit element is that of the bytes below it. -/
theorem two_pow_byteOffset {j : Nat} (hj : j < 8) : 2 ^ (56 - 8 * j) = 256 ^ (8 - 1 - j) := by
  rw [show 56 - 8 * j = 8 * (8 - 1 - j) by omega, Nat.pow_mul]

theorem readByte_writeWord {m : Memory} (hm : m.wf) (a : Nat) (v : Word) {j : Nat} (hj : j < 8) :
    readByte (writeWord m a v) (a + j) = v.extractLsb' (56 - 8 * j) 8 := by
  rw [writeWord, readByte_memWrite hm a hj, BitVec.extractLsb', Nat.shiftRight_eq_div_pow, two_pow_byteOffset hj]

theorem extractLsb'_readWord (m : Memory) (a : Nat) {j : Nat} (hj : j < 8) :
    (readWord m a).extractLsb' (56 - 8 * j) 8 = readByte m (a + j) := by
  refine BitVec.eq_of_toNat_eq ?_
  have hlt : memRead m a 8 < 2 ^ 64 := memRead_lt m a 8
  rw [readWord, BitVec.extractLsb'_toNat, BitVec.toNat_ofNat, Nat.mod_eq_of_lt hlt, Nat.shiftRight_eq_div_pow,
    two_pow_byteOffset hj]
  exact memRead_div_pow m a hj

/-! ## The host's 64-bit accesses while no command runs (30_encoding R190) -/

theorem dataAccess_of_inside {s : State} {a n : Nat} (h : a + n ≤ s.cfg.memBytes) (t : State) :
    dataAccess s a n t = .next t := if_neg (by omega)

theorem hostStore_idle {s : State} (hb : s.status.busy = false) (a n v : Nat) :
    hostStore s a n v = { s with mem := memWrite s.mem a n v } := by
  simp [hostStore, hb]

theorem hostLoad_idle {s : State} (hb : s.status.busy = false) (a n : Nat) :
    hostLoad s a n = { s with hostData := u64 (memRead s.mem a n) } := by
  simp [hostLoad, hb]

theorem step_host {s : State} {a : HostAccess} {rest : List Input} (h : s.inputs = .host a :: rest) :
    step s = hostStep a { s with inputs := rest } := by
  unfold step stepInputs
  rw [h]

theorem step_memStoreWord_idle {s : State} {a : Nat} {v : Word} {rest : List Input} (hb : s.status.busy = false)
    (ha : a + 8 ≤ s.cfg.memBytes) (h : s.inputs = .host (.memStoreWord a v) :: rest) :
    step s = .next { s with inputs := rest, mem := writeWord s.mem a v } := by
  rw [step_host h, hostStep, dataAccess_of_inside (by exact ha), hostStore_idle (by exact hb)]
  rfl

theorem step_memLoadWord_idle {s : State} {a : Nat} {rest : List Input} (hb : s.status.busy = false)
    (ha : a + 8 ≤ s.cfg.memBytes) (h : s.inputs = .host (.memLoadWord a) :: rest) :
    step s = .next { s with inputs := rest, hostData := readWord s.mem a } := by
  rw [step_host h, hostStep, dataAccess_of_inside (by exact ha), hostLoad_idle (by exact hb)]
  rfl

/-- Settles O16: the bytes of a number by induction on their count, the host's accesses by their idle rules. -/
theorem bigEndianElements : Obligations.BigEndianElements := by
  intro m a v hm
  refine ⟨fun j hj => readByte_writeWord hm a v hj, sameOutside_memWrite m a 8 _, readWord_writeWord m a v hm,
    writeWord_wf m a v hm, fun j hj => extractLsb'_readWord m a hj, ?_⟩
  rintro s rest rfl hb ha
  exact ⟨step_memStoreWord_idle hb ha, step_memLoadWord_idle hb ha⟩

end Sys2Proof.Machine
end

section
/-! PROOFS. What the bit packer and the delta codec reject (40_bitpack R202 to R206, 42_delta_encoder R266, R267,
43_delta_decoder R306, R307): the error each check finds, and that the first one found is the command's whole outcome
(60_exceptions R531, R534). -/

namespace Sys2Proof.Machine

/-! ## Bit packer -/

section Array

variable {p : Params} {a n : Nat}

theorem checkArray64_of_misaligned (ha : a % 8 ≠ 0) : checkArray64 p a n = some (.alignmentFault, u64 a) := by
  rw [checkArray64, require_neg ha, Option.some_or]

theorem checkArray64_of_outside (ha : a % 8 = 0) (h : p.memBytes < a + 8 * n) :
    checkArray64 p a (8 * n / 8) = some (.accessFault, u64 (max a p.memBytes)) := by
  rw [checkArray64, require_pos ha, Option.none_or, Nat.mul_div_cancel_left n (by decide), require_neg (by omega)]

theorem checkArray64_of_inside (ha : a % 8 = 0) (h : a + 8 * n ≤ p.memBytes) : checkArray64 p a (8 * n / 8) = none := by
  rw [Nat.mul_div_cancel_left n (by decide)]
  exact (checkArray64_eq_none ..).2 ⟨ha, h⟩

theorem checkBytes_of_outside (h : p.memBytes < a + n) :
    checkBytes p a n = some (.accessFault, u64 (max a p.memBytes)) := require_neg (by omega) ..

end Array

theorem unpackArray_zero (f : Format) (w nbytes arr : Nat) : unpackArray f w 0 nbytes arr = [] :=
  List.eq_nil_of_length_eq_zero (Nat.le_zero.1 (length_unpackArray_le ..))

theorem bpOverlap_of_empty {b : BpArrays} (h : b.dstBytes = 0) : bpOverlap b = false := by
  simp [bpOverlap, rangesMeet, h]

theorem bpDecode_of_empty {w : Nat} {f : Format} {b : BpArrays} {s : State} (hd : b.dstBytes = 0)
    (hv : b.dstBytes = 8 * b.values) : bpDecode w f b s = s := by
  have h0 : b.values = 0 := by omega
  rw [bpDecode, bpOverlap_of_empty hd, bpDecoded, h0, unpackArray_zero]
  rfl

theorem bpEncode_of_empty {w : Nat} {f : Format} {b : BpArrays} {s : State} (hd : b.dstBytes = 0) :
    bpEncode w f b s = s := by
  rw [bpEncode, bpOverlap_of_empty hd, hd]
  rfl

/-- The shape the four commands share (40_bitpack R203 to R206): the width is checked, and unless there are no
iterations the source and then the destination; with no iterations the effect is none. -/
def BpCommand (w : Nat) (f : Format) (s : State) (i : Instr) (src dst : Check) : Prop :=
  ∃ effect : Unit → State, (s.args.a4 = 0 → effect () = s) ∧
    exec i s = s.conclude ((checkWidth w f).or (unlessNoIterations s (src.or dst))) effect

section Shape

variable (w : Nat) (f : Format) (s : State)

theorem bpDecLL_command : BpCommand w f s (.bpDecLL w f)
    (checkArray64 s.cfg (bpArraysDecLL w f s).src ((bpArraysDecLL w f s).srcBytes / 8))
    (checkArray64 s.cfg (bpArraysDecLL w f s).dst ((bpArraysDecLL w f s).dstBytes / 8)) :=
  ⟨fun _ => bpDecode w f (bpArraysDecLL w f s) s, fun h0 => bpDecode_of_empty (by simp [bpArraysDecLL, h0]) rfl, rfl⟩

theorem bpDecBL_command : BpCommand w f s (.bpDecBL w f)
    (checkBytes s.cfg (bpArraysDecBL w f s).src (bpArraysDecBL w f s).srcBytes)
    (checkArray64 s.cfg (bpArraysDecBL w f s).dst ((bpArraysDecBL w f s).dstBytes / 8)) :=
  ⟨fun _ => bpDecode w f (bpArraysDecBL w f s) s, fun h0 => bpDecode_of_empty (by simp [bpArraysDecBL, h0]) rfl, rfl⟩

theorem bpEncLL_command : BpCommand w f s (.bpEncLL w f)
    (checkArray64 s.cfg (bpArraysEncLL w f s).src ((bpArraysEncLL w f s).srcBytes / 8))
    (checkArray64 s.cfg (bpArraysEncLL w f s).dst ((bpArraysEncLL w f s).dstBytes / 8)) :=
  ⟨fun _ => bpEncode w f (bpArraysEncLL w f s) s, fun h0 => bpEncode_of_empty (by simp [bpArraysEncLL, h0]), rfl⟩

theorem bpEncLB_command : BpCommand w f s (.bpEncLB w f)
    (checkArray64 s.cfg (bpArraysEncLB w f s).src ((bpArraysEncLB w f s).srcBytes / 8))
    (checkBytes s.cfg (bpArraysEncLB w f s).dst (bpArraysEncLB w f s).dstBytes) :=
  ⟨fun _ => bpEncode w f (bpArraysEncLB w f s) s, fun h0 => bpEncode_of_empty (by simp [bpArraysEncLB, h0]), rfl⟩

end Shape

namespace BpCommand

variable {w a n : Nat} {f : Format} {s : State} {i : Instr} {src dst : Check} {e : Err}

theorem noIterations (h : BpCommand w f s i src dst) (hw : checkWidth w f = none) (h0 : s.args.a4 = 0) :
    exec i s = .next s.complete := by
  obtain ⟨effect, hnone, hx⟩ := h
  rw [hx, hw, Option.none_or, unlessNoIterations, if_pos h0, conclude_none, hnone h0]

theorem rejected (h : BpCommand w f s i src dst) (hw : checkWidth w f = none) (ha : s.args.a4 ≠ 0)
    (he : src.or dst = some e) : exec i s = .next (s.completeErr e.1 e.2) := by
  obtain ⟨effect, -, hx⟩ := h
  rw [hx, hw, Option.none_or, unlessNoIterations, if_neg ha, he, conclude_some]

/-- A source of words is checked first: its alignment, then its range. -/
theorem source_rejected (h : BpCommand w f s i (checkArray64 s.cfg a (8 * n / 8)) dst) (hw : checkWidth w f = none)
    (ha : s.args.a4 ≠ 0) :
    (a % 8 ≠ 0 → exec i s = .next (s.completeErr .alignmentFault (u64 a))) ∧
    (a % 8 = 0 → s.cfg.memBytes < a + 8 * n →
      exec i s = .next (s.completeErr .accessFault (u64 (max a s.cfg.memBytes)))) :=
  ⟨fun h8 => h.rejected hw ha (by rw [checkArray64_of_misaligned h8, Option.some_or]),
    fun h8 hout => h.rejected hw ha (by rw [checkArray64_of_outside h8 hout, Option.some_or])⟩

/-- A destination of words is checked once the source is accepted. -/
theorem destination_rejected (h : BpCommand w f s i src (checkArray64 s.cfg a (8 * n / 8)))
    (hw : checkWidth w f = none) (ha : s.args.a4 ≠ 0) (hsrc : src = none) :
    (a % 8 ≠ 0 → exec i s = .next (s.completeErr .alignmentFault (u64 a))) ∧
    (a % 8 = 0 → s.cfg.memBytes < a + 8 * n →
      exec i s = .next (s.completeErr .accessFault (u64 (max a s.cfg.memBytes)))) :=
  ⟨fun h8 => h.rejected hw ha (by rw [hsrc, Option.none_or, checkArray64_of_misaligned h8]),
    fun h8 hout => h.rejected hw ha (by rw [hsrc, Option.none_or, checkArray64_of_outside h8 hout])⟩

end BpCommand

/-- Settles O26: each clause by the first check of its command that finds an error. -/
theorem bpCommandsReject : Obligations.BpCommandsReject := by
  intro s w f hw
  refine ⟨fun h0 => ?_, fun ha => ⟨?_, fun hout => ?_, ?_, fun hin => ?_, fun h8 hin hout => ?_⟩⟩
  · simp only [List.forall_mem_cons]
    exact ⟨(bpDecLL_command w f s).noIterations hw h0, (bpDecBL_command w f s).noIterations hw h0,
      (bpEncLL_command w f s).noIterations hw h0, (bpEncLB_command w f s).noIterations hw h0, nofun⟩
  · simp only [List.forall_mem_cons]
    exact ⟨(bpDecLL_command w f s).source_rejected hw ha, (bpEncLL_command w f s).source_rejected hw ha,
      (bpEncLB_command w f s).source_rejected hw ha, nofun⟩
  · exact (bpDecBL_command w f s).rejected hw ha (by rw [checkBytes_of_outside hout, Option.some_or])
  · simp only [List.forall_mem_cons]
    exact ⟨fun h8 hin => (bpDecLL_command w f s).destination_rejected hw ha (checkArray64_of_inside h8 hin),
      fun h8 hin => (bpEncLL_command w f s).destination_rejected hw ha (checkArray64_of_inside h8 hin), nofun⟩
  · exact (bpDecBL_command w f s).destination_rejected hw ha ((checkBytes_eq_none ..).2 hin)
  · refine (bpEncLB_command w f s).rejected (e := (_, _)) hw ha ?_
    rw [checkBytes_of_outside hout, Option.or_eq_some_iff]
    exact .inr ⟨checkArray64_of_inside h8 hin, rfl⟩

/-! ## Delta encoder -/

section Writer

variable {s : State}

theorem checkWriter_of_uninit (h : s.de.state = .uninit) : checkWriter s = some (.notInitialized, 0) := by
  rw [checkWriter, require_neg (not_not.2 h), Option.some_or, Option.some_or]

theorem checkWriter_of_finished (h : s.de.state = .finished) : checkWriter s = some (.alreadyFinished, 0) := by
  rw [checkWriter, require_pos (by simp [h]), Option.none_or, require_neg (not_not.2 h), Option.some_or]

theorem checkWriter_of_initialized (hu : s.de.state ≠ .uninit) (hf : s.de.state ≠ .finished) :
    checkWriter s = checkOut s := by
  rw [checkWriter, require_pos hu, require_pos hf, Option.none_or, Option.none_or]

theorem checkRoom_of_overflow {bs : List Byte} (hptr : s.outPtr.toNat ≤ s.outEnd.toNat)
    (h : s.outEnd.toNat < s.outPtr.toNat + bs.length) : checkRoom s bs = some (.outputOverflow, u64 bs.length) :=
  require_neg (by omega) ..

end Writer

/-- The bytes a `DE_ADD` or `DE_FINISH` writes (42_delta_encoder R266, R267). -/
def writerBytes (i : Instr) (s : State) : List Byte :=
  if i = .deAdd then deAddBytes s.de s.args.a0 else deFinishBytes s.de

/-- `DE_ADD` and `DE_FINISH` check the writer and then the room for what they write. -/
theorem exec_writer_rejected {i : Instr} {s : State} {e : Err} (hi : i = .deAdd ∨ i = .deFinish)
    (he : (checkWriter s).or (checkRoom s (writerBytes i s)) = some e) : exec i s = .next (s.completeErr e.1 e.2) := by
  obtain rfl | rfl := hi
  · have he : (checkWriter s).or (checkRoom s (deAddBytes s.de s.args.a0)) = some e := he
    simp only [exec, execDeAdd, he, conclude_some]
  · have he : (checkWriter s).or (checkRoom s (deFinishBytes s.de)) = some e := he
    simp only [exec, execDeFinish, he, conclude_some]

theorem deltaEncoder_rejects (s : State) (i : Instr) (hi : i = .deAdd ∨ i = .deFinish) :
    (s.de.state = .uninit → exec i s = .next (s.completeErr .notInitialized 0)) ∧
    (s.de.state = .finished → exec i s = .next (s.completeErr .alreadyFinished 0)) ∧
    (s.de.state ≠ .uninit → s.de.state ≠ .finished →
      (checkOut s ≠ none → exec i s = .next (s.completeErr .accessFault s.outEnd)) ∧
      (checkOut s = none → s.outEnd.toNat < s.outPtr.toNat + (writerBytes i s).length →
        exec i s = .next (s.completeErr .outputOverflow (u64 (writerBytes i s).length)))) := by
  refine ⟨fun h => ?_, fun h => ?_, fun hu hf => ⟨fun hout => ?_, fun hout hroom => ?_⟩⟩
  · exact exec_writer_rejected hi (by rw [checkWriter_of_uninit h, Option.some_or])
  · exact exec_writer_rejected hi (by rw [checkWriter_of_finished h, Option.some_or])
  · rw [Ne, checkOut_eq_none] at hout
    exact exec_writer_rejected hi (by
      rw [checkWriter_of_initialized hu hf, checkOut, require_neg hout, Option.some_or])
  · have hptr := ((checkOut_eq_none s).1 hout).1
    exact exec_writer_rejected hi (by
      rw [checkWriter_of_initialized hu hf, hout, Option.none_or, checkRoom_of_overflow hptr hroom])

/-- The block a `DE_ADD` fills or a `DE_FINISH` closes (42_delta_encoder R266, R267). -/
theorem writerBytes_of_block {i : Instr} {s : State} (hi : i = .deAdd ∨ i = .deFinish)
    (h : if i = .deAdd then s.de.pending.toNat + 1 = s.de.blockSize.toNat else s.de.pending ≠ 0) :
    writerBytes i s = if i = .deAdd then encodeBlock s.de.mono (s.de.buf.take s.de.pending.toNat ++ [s.args.a0])
      else encodeBlock s.de.mono (s.de.buf.take s.de.pending.toNat) := by
  obtain rfl | rfl := hi
  · exact if_pos h
  · exact if_neg h

/-! ## Delta decoder -/

section Reader

variable {s : State}

theorem checkReader_of_uninit (h : s.dd.state = .uninit) : checkReader s = some (.notInitialized, 0) := by
  rw [checkReader, h, require_neg (by decide)]
  rfl

theorem concludeStream_some (s : State) (e : Err) (f : Unit → Except Err State) :
    s.concludeStream (some e) f = .next (s.completeErr e.1 e.2) := rfl

theorem ddNext_rejected {e : Err} (h : ddNextCheck s = some e) : exec .ddNext s = .next (s.completeErr e.1 e.2) := by
  rw [exec, execDdNext, h, concludeStream_some]

theorem ddSkip_rejected {e : Err} (h : ddSkipCheck s = some e) : exec .ddSkip s = .next (s.completeErr e.1 e.2) := by
  rw [exec, execDdSkip, h, concludeStream_some]

theorem ddNextCheck_of_ready (hr : s.dd.state = .ready) :
    ddNextCheck s = (require (s.dd.ord ≠ s.dd.count) .indexOutOfRange s.dd.ord).or (checkIn s) := by
  rw [ddNextCheck, (checkReader_eq_none s).2 hr, Option.none_or]

theorem ddSkipCheck_of_ready (hr : s.dd.state = .ready) : ddSkipCheck s =
    (require (s.dd.ord.toNat + s.args.a0.toNat ≤ s.dd.count.toNat) .indexOutOfRange s.args.a0).or
      (if s.args.a0 = 0 then none else checkIn s) := by
  rw [ddSkipCheck, (checkReader_eq_none s).2 hr, Option.none_or]

theorem checkIn_of_illegal (h : ¬ (s.inPtr.toNat ≤ s.inEnd.toNat ∧ s.inEnd.toNat ≤ s.cfg.memBytes)) :
    checkIn s = some (.accessFault, s.inEnd) := require_neg h ..

end Reader

/-- Settles O31: each clause by the first check of its command that finds an error. -/
theorem deltaCommandsReject : Obligations.DeltaCommandsReject := by
  refine ⟨fun s i hi => ?_, fun s => ⟨fun hu => ?_, fun hr => ⟨fun hord => ?_, fun hskip => ?_, fun hin => ⟨?_, ?_⟩⟩⟩⟩
  · obtain ⟨huninit, hfinished, hready⟩ := deltaEncoder_rejects s i hi
    refine ⟨huninit, hfinished, fun hu hf => ?_⟩
    obtain ⟨hout, hroom⟩ := hready hu hf
    refine ⟨fun h => hout (mt (checkOut_eq_none s).1 h), fun h => ?_⟩
    intro bs hblock
    rw [show bs = writerBytes i s from (writerBytes_of_block hi hblock).symm]
    exact hroom ((checkOut_eq_none s).2 h)
  · have hcheck := checkReader_of_uninit hu
    simp only [List.forall_mem_cons]
    exact ⟨ddNext_rejected (by rw [ddNextCheck, hcheck, Option.some_or, Option.some_or]),
      ddSkip_rejected (by rw [ddSkipCheck, hcheck, Option.some_or, Option.some_or]), nofun⟩
  · exact ddNext_rejected (by rw [ddNextCheck_of_ready hr, require_neg (not_not.2 hord), Option.some_or])
  · exact ddSkip_rejected (by rw [ddSkipCheck_of_ready hr, require_neg (by omega), Option.some_or])
  · intro hord
    exact ddNext_rejected (by
      rw [ddNextCheck_of_ready hr, require_pos hord, Option.none_or, checkIn_of_illegal hin])
  · intro h0 hcount
    exact ddSkip_rejected (by
      rw [ddSkipCheck_of_ready hr, require_pos hcount, Option.none_or, if_neg h0, checkIn_of_illegal hin])

end Sys2Proof.Machine
end

section
/-! PROOFS. The command word (30_encoding R140 to R145): decoding and encoding invert each other, through what a row of
the opcode map makes of the fields of a word, and which words are illegal. -/

namespace Sys2Proof.Laws

open Sys2Proof.Machine

/-! ## What a row of the opcode map reads (R144) -/

/-- The command a row reads from the fields BPV and FMT. -/
def RowReads : OpcodeRow → Nat → Nat → Instr → Prop
  | .zz j, bpv, fmt, i => bpv = 0 ∧ fmt = 0 ∧ i = j
  | .wz g, bpv, fmt, i => fmt = 0 ∧ i = g bpv
  | .wf g, bpv, fmt, i => i = g bpv (formatOf fmt)

/-- The row uses the BPV field. -/
def rowUsesWidth : OpcodeRow → Bool
  | .zz _ => false
  | .wz _ | .wf _ => true

/-- The row uses the FMT field. -/
def rowUsesFormat : OpcodeRow → Bool
  | .zz _ | .wz _ => false
  | .wf _ => true

/-- The FMT field of a command's word (R140). -/
def formatFieldOf : Instr → Nat
  | .bpGeom _ f | .bpDecLL _ f | .bpDecBL _ f | .bpEncLL _ f | .bpEncLB _ f => formatId f
  | _ => 0

@[simp] theorem formatOf_formatId (f : Format) : formatOf (formatId f) = f := by cases f <;> rfl

theorem formatId_formatOf {n : Nat} (h : n < 2) : formatId (formatOf n) = n := by
  obtain rfl | rfl : n = 0 ∨ n = 1 := by omega
  · rfl
  · rfl

theorem bpvField_lt (c : Word) : bpvField c < 128 := Nat.mod_lt _ (by decide)

theorem fmtField_lt (c : Word) : fmtField c < 2 := Nat.mod_lt _ (by decide)

/-- A word without reserved bits is the word of its fields. -/
theorem encodeCmd_of_fields {c : Word} (h : reservedField c = 0) :
    encodeCmd (opcField c) (bpvField c) (fmtField c) = c := by
  refine BitVec.eq_of_toNat_eq ?_
  have hc := c.isLt
  simp only [reservedField, opcField, bpvField, fmtField, encodeCmd, BitVec.toNat_ofNat] at *
  omega

/-- A word decodes exactly when its opcode has a row and the row reads its fields. -/
theorem decode_eq_ok_iff {c : Word} {i : Instr} : decode c = .ok i ↔
    ∃ row, opcodeRow (opcField c) = some row ∧ reservedField c = 0 ∧ RowReads row (bpvField c) (fmtField c) i := by
  unfold decode
  cases hrow : opcodeRow (opcField c) with
  | none => simp
  | some row =>
    by_cases hres : reservedField c = 0
    · cases row with
      | zz j =>
        by_cases hb : bpvField c = 0 <;> by_cases hf : fmtField c = 0 <;> simp [hres, hb, hf, RowReads, eq_comm]
      | wz g => by_cases hf : fmtField c = 0 <;> simp [hres, hf, RowReads, eq_comm]
      | wf g => simp [hres, RowReads, eq_comm]
    · simp [hres]

/-- A word is rejected exactly when its opcode has no row, a reserved bit is set, or a field its row does not use is not
zero. -/
theorem decode_eq_error_iff {c : Word} : (∃ e, decode c = .error e) ↔
    opcodeRow (opcField c) = none ∨ reservedField c ≠ 0 ∨ ∃ row, opcodeRow (opcField c) = some row ∧
      ((bpvField c ≠ 0 ∧ rowUsesWidth row = false) ∨ (fmtField c ≠ 0 ∧ rowUsesFormat row = false)) := by
  unfold decode
  cases hrow : opcodeRow (opcField c) with
  | none => simp
  | some row =>
    by_cases hres : reservedField c = 0
    · cases row with
      | zz j =>
        by_cases hb : bpvField c = 0 <;> by_cases hf : fmtField c = 0 <;>
          simp [hres, hb, hf, rowUsesWidth, rowUsesFormat]
      | wz g => by_cases hf : fmtField c = 0 <;> simp [hres, hf, rowUsesWidth, rowUsesFormat]
      | wf g => simp [hres, rowUsesWidth, rowUsesFormat]
    · simp [hres]

/-! ## The rows of the opcode map -/

/-- The row of a command reads the command from its operands. -/
theorem opcodeRow_opcodeOf (i : Instr) :
    ∃ row, opcodeRow (opcodeOf i) = some row ∧ RowReads row (widthOf i) (formatFieldOf i) i := by
  cases i <;> refine ⟨_, rfl, ?_⟩ <;> simp [RowReads, widthOf, formatFieldOf]

/-- What a row makes of operands in range is well formed, and its word has the opcode of the row. -/
def RowEncodes (opc : Nat) : OpcodeRow → Prop
  | .zz i => WellFormed i ∧ encode i = encodeCmd opc 0 0
  | .wz g => ∀ bpv < 128, WellFormed (g bpv) ∧ encode (g bpv) = encodeCmd opc bpv 0
  | .wf g => ∀ bpv < 128, ∀ f, WellFormed (g bpv f) ∧ encode (g bpv f) = encodeCmd opc bpv (formatId f)

theorem rowEncodes_of_opcodeRow {opc : Nat} {row : OpcodeRow} (h : opcodeRow opc = some row) : RowEncodes opc row := by
  unfold opcodeRow at h
  split at h <;> cases h <;> simp +contextual [RowEncodes, WellFormed, Instr.wellFormedB, encode]

/-- What a row reads from fields in range is the well-formed command whose word has these fields. -/
theorem encode_of_rowReads {opc bpv fmt : Nat} {row : OpcodeRow} {i : Instr} (hrow : opcodeRow opc = some row)
    (hi : RowReads row bpv fmt i) (hb : bpv < 128) (hf : fmt < 2) :
    WellFormed i ∧ encode i = encodeCmd opc bpv fmt := by
  have henc := rowEncodes_of_opcodeRow hrow
  cases row with
  | zz j =>
    obtain ⟨rfl, rfl, rfl⟩ := hi
    exact henc
  | wz g =>
    obtain ⟨rfl, rfl⟩ := hi
    exact henc bpv hb
  | wf g =>
    subst hi
    simpa only [formatId_formatOf hf] using henc bpv hb (formatOf fmt)

/-- The opcodes the map assigns (R144, R145). -/
theorem opcodeRow_eq_none_iff (n : Nat) : opcodeRow n = none ↔
    n ∉ [0x00, 0x01, 0x02, 0x03, 0x10, 0x11, 0x12, 0x13, 0x20, 0x21, 0x22, 0x23, 0x28, 0x29, 0x2A, 0x2B,
      0x30, 0x31, 0x32, 0x33, 0x34, 0x35, 0x40, 0x41, 0x42, 0x43, 0x48, 0x49, 0x4A, 0x4B, 0x4C, 0x4D, 0x50, 0x51, 0x52,
      0x58, 0x59, 0x5A, 0x5B, 0x5C, 0x5D, 0x5E, 0x5F] := by
  unfold opcodeRow
  split <;> simp
  and_intros <;> assumption

/-- The opcodes whose rows use the BPV and the FMT field (R144). -/
theorem opcodeRow_uses {n : Nat} {row : OpcodeRow} (h : opcodeRow n = some row) :
    (rowUsesWidth row = false ↔ n ∉ [0x01, 0x02, 0x10, 0x11, 0x12, 0x13, 0x40, 0x48]) ∧
    (rowUsesFormat row = false ↔ n ∉ [0x02, 0x10, 0x11, 0x12, 0x13]) := by
  unfold opcodeRow at h
  split at h <;> cases h <;> simp [rowUsesWidth, rowUsesFormat]

/-! ## The statements -/

theorem wellFormed_operands {i : Instr} (h : WellFormed i) :
    opcodeOf i < 256 ∧ widthOf i < 128 ∧ formatFieldOf i < 2 := by
  have hfmt (f : Format) : formatId f ≤ 1 := Nat.le_of_lt_succ (formatId_lt f)
  cases i <;> simp_all [opcodeOf, widthOf, formatFieldOf, WellFormed, Instr.wellFormedB]

/-- Settles O1: the row of the command reads the fields its word is built from. -/
theorem decodeOfEncode : Obligations.DecodeOfEncode := by
  intro i hw
  obtain ⟨row, hrow, hreads⟩ := opcodeRow_opcodeOf i
  obtain ⟨hopc, hwidth, hfmt⟩ := wellFormed_operands hw
  obtain ⟨-, hword⟩ := encode_of_rowReads hrow hreads hwidth hfmt
  obtain ⟨ho, hb, hf, hres⟩ := encodeCmd_fields _ _ _ hopc hwidth hfmt
  rw [hword, decode_eq_ok_iff, ho, hb, hf]
  exact ⟨row, hrow, hres, hreads⟩

/-- Settles O2: the row that read the word says which word its command has, and a word is its fields. -/
theorem encodeOfDecode : Obligations.EncodeOfDecode := by
  intro c i h
  obtain ⟨row, hrow, hres, hreads⟩ := decode_eq_ok_iff.1 h
  obtain ⟨hw, hword⟩ := encode_of_rowReads hrow hreads (bpvField_lt c) (fmtField_lt c)
  exact ⟨hw, hword.trans (encodeCmd_of_fields hres)⟩

theorem checkWidth_eq_some {w : Nat} {f : Format} (h : checkWidth w f ≠ none) :
    checkWidth w f = some (.invalidBitWidth, u64 w) := by
  cases f with
  | packed => exact require_neg (mt (require_pos · _ _) h) _ _
  | singleBlock => exact require_neg (mt (require_pos · _ _) h) _ _

/-- A command of the bit packer checks its width first. -/
theorem bpCommand_width_rejected {w : Nat} {f : Format} {s : State} {i : Instr} {src dst : Check}
    (hi : BpCommand w f s i src dst) (h : checkWidth w f ≠ none) :
    exec i s = .next (s.completeErr .invalidBitWidth (u64 w)) := by
  obtain ⟨effect, -, hx⟩ := hi
  rw [hx, checkWidth_eq_some h, Option.some_or, conclude_some]

theorem bpGeom_width_rejected {w : Nat} {f : Format} {s : State} (h : checkWidth w f ≠ none) :
    exec (.bpGeom w f) s = .next (s.completeErr .invalidBitWidth (u64 w)) := by
  rw [exec, execBpGeom, checkWidth_eq_some h, conclude_some]

theorem bitPacker_width_rejected (s : State) {w : Nat} {f : Format} (h : checkWidth w f ≠ none) :
    ∀ i ∈ [Instr.bpGeom w f, .bpDecLL w f, .bpDecBL w f, .bpEncLL w f, .bpEncLB w f],
      exec i s = .next (s.completeErr .invalidBitWidth (u64 w)) := by
  simp only [List.forall_mem_cons]
  exact ⟨bpGeom_width_rejected h, bpCommand_width_rejected (bpDecLL_command w f s) h,
    bpCommand_width_rejected (bpDecBL_command w f s) h, bpCommand_width_rejected (bpEncLL_command w f s) h,
    bpCommand_width_rejected (bpEncLB_command w f s) h, nofun⟩

/-- The commands that carry a width and no format check it first (41_format_selector R241, 45_dynamic_array R383,
R392). -/
theorem plainWidth_rejected (s : State) {w : Nat} (h : ¬ (1 ≤ w ∧ w ≤ 64)) :
    ∀ i ∈ [Instr.fsSelect w, .gwInit w, .pgInit w], exec i s = .next (s.completeErr .invalidBitWidth (u64 w)) := by
  have hw : checkBpv w = some (.invalidBitWidth, u64 w) := require_neg h _ _
  simp only [List.forall_mem_cons]
  refine ⟨?_, ?_, ?_, nofun⟩
  · rw [exec, execFsSelect, hw, conclude_some]
  · rw [exec, execGwInit, hw, Option.some_or, conclude_some]
  · rw [exec, execPgInit, pgInitCheck, hw]
    rfl

theorem step_engine {s : State} {rest : List Input} (h : s.inputs = .engine :: rest ∨ (s.inputs = [] ∧ rest = [])) :
    step s = engineTurn { s with inputs := rest } := by
  unfold step stepInputs
  rcases h with h | ⟨h, rfl⟩
  · rw [h]
  · cases s
    simp_all

theorem engineTurn_illegal {s : State} {e : DecodeError} (hb : s.status.busy = true) (hz : s.hazard = {})
    (he : decode s.cmd = .error e) : engineTurn s = .next (illegalCommand s) := by
  rw [engineTurn, if_pos hb, runCommand, he]
  exact congrArg Host.Outcome.next (settleHazards_none _ hz)

/-- Settles O3: the rows say which words are illegal, the engine's turn what such a word does, and the first check of a
command what a width out of range does. -/
theorem illegalWordsComplete : Obligations.IllegalWordsComplete := by
  refine ⟨fun c => ?_, fun s e rest hin hb hz he => ?_, fun s w hw => ?_, fun s w hw => ?_⟩
  · rw [decode_eq_error_iff, ← opcodeRow_eq_none_iff]
    cases hrow : opcodeRow (opcField c) with
    | none => simp
    | some row =>
      obtain ⟨hwidth, hfmt⟩ := opcodeRow_uses hrow
      simp only [Option.some.injEq, exists_eq_left', hwidth, hfmt]
  · rw [step_engine hin, engineTurn_illegal (by exact hb) (by exact hz) (by exact he)]
    rfl
  · have hpacker := bitPacker_width_rejected s (f := .packed) (mt (require_eq_none _ _ _).1 hw)
    have hother := plainWidth_rejected s hw
    simp only [List.forall_mem_cons] at hpacker hother ⊢
    obtain ⟨hgeom, hdecLL, hdecBL, hencLL, hencLB, -⟩ := hpacker
    obtain ⟨hselect, hwriter, hpaged, -⟩ := hother
    exact ⟨hselect, hgeom, hdecLL, hdecBL, hencLL, hencLB, hwriter, hpaged, nofun⟩
  · exact bitPacker_width_rejected s (f := .singleBlock) (mt (require_eq_none _ _ _).1 hw)

/-- Settles O4: each word by evaluation of the decoder. -/
theorem sampleWordsDecode : Obligations.SampleWordsDecode := by
  refine ⟨rfl, rfl, rfl, rfl, rfl, rfl, rfl, rfl, rfl, rfl, rfl⟩

end Sys2Proof.Laws
end

section
/-! PROOFS. The geometry of the packed formats (30_encoding R152, R154, 40_bitpack R201). -/

namespace Sys2Proof.Machine

open Sys2Proof.Laws

theorem mul_div_gcd (w n : Nat) : w * (n / Nat.gcd w n) = n * (w / Nat.gcd w n) := by
  rw [← Nat.mul_div_assoc _ (Nat.gcd_dvd_right w n), ← Nat.mul_div_assoc _ (Nat.gcd_dvd_left w n), Nat.mul_comm]

/-- The counts of the PACKED geometry (R152): the least positive ones with which fields of `w` bits fill blocks of
`n`. -/
theorem gcd_geometry {w n : Nat} (hw : 0 < w) (hn : 0 < n) :
    (0 < w / Nat.gcd w n ∧ 0 < n / Nat.gcd w n) ∧
    ∀ b a, 0 < b → w * b = n * a → n / Nat.gcd w n ≤ b ∧ w / Nat.gcd w n ≤ a := by
  have hg : 0 < Nat.gcd w n := Nat.gcd_pos_of_pos_left n hw
  have hcop := Nat.coprime_div_gcd_div_gcd hg
  refine ⟨⟨Nat.div_gcd_pos_of_pos_left n hw, Nat.div_gcd_pos_of_pos_right w hn⟩, fun b a hb h => ?_⟩
  have ha : 0 < a := Nat.pos_of_ne_zero fun h0 => by simp [h0] at h; omega
  have hred : w / Nat.gcd w n * b = n / Nat.gcd w n * a := by
    refine Nat.eq_of_mul_eq_mul_left hg ?_
    rw [← Nat.mul_assoc, ← Nat.mul_assoc, Nat.mul_div_cancel' (Nat.gcd_dvd_left w n),
      Nat.mul_div_cancel' (Nat.gcd_dvd_right w n), h]
  exact ⟨Nat.le_of_dvd hb (hcop.symm.dvd_of_dvd_mul_left ⟨a, hred⟩),
    Nat.le_of_dvd ha (hcop.dvd_of_dvd_mul_left ⟨b, hred.symm⟩)⟩

/-- The legal widths of PACKED_SINGLE_BLOCK (30_encoding R154). -/
theorem sbWidths_bounds {w : Nat} (h : w ∈ sbWidths) : 1 ≤ w ∧ w ≤ 32 :=
  (by decide : ∀ w ∈ sbWidths, 1 ≤ w ∧ w ≤ 32) w h

theorem execBpGeom_of_legal {w : Nat} {f : Format} (s : State) (h : checkWidth w f = none) :
    exec (.bpGeom w f) s = .next ({ s with
      res := { r0 := u64 (geom w f).lbc, r1 := u64 (geom w f).lvc
               r2 := u64 (geom w f).bbc, r3 := u64 (geom w f).bvc } }).complete := by
  rw [exec, execBpGeom, h, conclude_none]
  rfl

/-- Settles O21: the counts of `Geom` are quotients by the greatest common divisor, hence the least. -/
theorem bpGeomCounts : Obligations.BpGeomCounts := by
  refine ⟨fun s w hw hw' => ?_, fun s w hw => ⟨64 / w, ?_, ?_, ?_, ?_⟩, fun s w f h => bpGeom_width_rejected h⟩
  · obtain ⟨⟨ha, hb⟩, hmin⟩ := gcd_geometry (n := 64) hw (by decide)
    obtain ⟨⟨hc, hd⟩, hmin'⟩ := gcd_geometry (n := 8) hw (by decide)
    exact ⟨_, _, _, _, execBpGeom_of_legal s (require_pos ⟨hw, hw'⟩ ..), ha, hb, (Nat.div_le_self ..).trans hw',
      Nat.div_le_self .., mul_div_gcd w 64, hmin, hc, hd, (Nat.div_le_self ..).trans hw', Nat.div_le_self ..,
      mul_div_gcd w 8, hmin'⟩
  · exact execBpGeom_of_legal s (require_pos hw ..)
  · exact Nat.div_le_self ..
  · exact Nat.div_mul_le_self ..
  · exact Nat.lt_mul_of_div_lt (Nat.lt_succ_self _) (sbWidths_bounds hw).1

end Sys2Proof.Machine
end

section
/-! PROOFS. The data memory and the packed layouts, bit by bit (20_memory R102, 30_encoding R150 to R155): every array
is read and written through its stream bits. -/

namespace Sys2Proof.Machine

/-! ## Stream bits of the data memory -/

/-- A number read from the memory has the stream bits of its bytes, the first bit most significant. -/
theorem testBit_memRead (m : Memory) (a : Nat) {n t : Nat} (h : t < 8 * n) :
    (memRead m a n).testBit (8 * n - 1 - t) = streamBit m a t := by
  have hj : t / 8 < n := by omega
  rw [streamBit, ← BitVec.testBit_toNat, ← memRead_div_pow m a hj, show 256 = 2 ^ 8 from rfl, ← Nat.pow_mul,
    Nat.testBit_mod_two_pow, Nat.testBit_div_two_pow, decide_eq_true (by omega), Bool.true_and]
  congr 1
  omega

theorem streamBit_memWrite {m : Memory} (hm : m.wf) (a : Nat) {n t : Nat} (h : t < 8 * n) (v : Nat) :
    streamBit (memWrite m a n v) a t = v.testBit (8 * n - 1 - t) := by
  have hj : t / 8 < n := by omega
  rw [streamBit, readByte_memWrite hm a hj, BitVec.getLsbD_ofNat, show 256 = 2 ^ 8 from rfl, ← Nat.pow_mul,
    Nat.testBit_div_two_pow, decide_eq_true (by omega), Bool.true_and]
  congr 1
  omega

theorem streamBit_congr {m m' : Memory} {a t : Nat} (h : readByte m' (a + t / 8) = readByte m (a + t / 8)) :
    streamBit m' a t = streamBit m a t := by
  rw [streamBit, h, streamBit]

/-- The bits of a stream that starts `k` bytes later. -/
theorem streamBit_add (m : Memory) (a k t : Nat) : streamBit m (a + k) t = streamBit m a (8 * k + t) := by
  rw [streamBit, streamBit, show a + (8 * k + t) / 8 = a + k + t / 8 by omega, show (8 * k + t) % 8 = t % 8 by omega]

theorem getLsbD_readWord (m : Memory) (a : Nat) {b : Nat} (h : b < 64) :
    (readWord m a).getLsbD b = streamBit m a (63 - b) := by
  rw [← testBit_memRead m a (n := 8) (by omega), readWord, BitVec.getLsbD_ofNat, decide_eq_true h, Bool.true_and]
  congr 1
  omega

/-- A number is determined by its bits, the most significant of `len` first. -/
theorem eq_of_testBit_from_top {len x y : Nat} (hx : x < 2 ^ len) (hy : y < 2 ^ len)
    (h : ∀ q, q < len → x.testBit (len - 1 - q) = y.testBit (len - 1 - q)) : x = y := by
  refine Nat.eq_of_testBit_eq fun i => ?_
  by_cases hi : i < len
  · have := h (len - 1 - i) (by omega)
    rwa [show len - 1 - (len - 1 - i) = i by omega] at this
  · have hpow : 2 ^ len ≤ 2 ^ i := Nat.pow_le_pow_right (by decide) (by omega)
    rw [Nat.testBit_lt_two_pow (hx.trans_le hpow), Nat.testBit_lt_two_pow (hy.trans_le hpow)]

/-- The number a region holds, by its stream bits. -/
theorem memRead_eq_iff {m : Memory} {a n v : Nat} (hv : v < 2 ^ (8 * n)) :
    memRead m a n = v ↔ ∀ q, q < 8 * n → streamBit m a q = v.testBit (8 * n - 1 - q) := by
  refine ⟨fun h q hq => ?_, fun h => ?_⟩
  · rw [← h, testBit_memRead m a hq]
  · have hlt := memRead_lt m a n
    rw [show 256 = 2 ^ 8 from rfl, ← Nat.pow_mul] at hlt
    exact eq_of_testBit_from_top hlt hv fun q hq => by rw [testBit_memRead m a hq, h q hq]

/-! ## Fields of a stream (R150, R155) -/

/-- Position `r` of field `n`. -/
theorem mul_add_div_mod {w r : Nat} (n : Nat) (h : r < w) : (n * w + r) / w = n ∧ (n * w + r) % w = r :=
  (Nat.div_mod_unique (by omega)).2 ⟨by rw [Nat.mul_comm, Nat.add_comm], h⟩

theorem testBit_mod_of_lt {x w k : Nat} (h : k < w) : (x % 2 ^ w).testBit k = x.testBit k := by
  rw [Nat.testBit_mod_two_pow, decide_eq_true h, Bool.true_and]

/-- Bit `b` of a field, in terms of the bits of the stream's number. -/
theorem testBit_fieldAt {len pos w : Nat} (stream b : Nat) :
    (fieldAt len stream pos w).testBit b = (decide (b < w) && stream.testBit (len - (pos + w) + b)) := by
  rw [fieldAt, Nat.testBit_mod_two_pow, Nat.testBit_div_two_pow, Nat.add_comm b]

/-- Bit `b` of a field of a stream in the memory. -/
theorem testBit_fieldAt_memRead (m : Memory) (a : Nat) {n pos w : Nat} (h : pos + w ≤ 8 * n) (b : Nat) :
    (fieldAt (8 * n) (memRead m a n) pos w).testBit b = (decide (b < w) && streamBit m a (pos + (w - 1 - b))) := by
  rw [testBit_fieldAt]
  by_cases hb : b < w
  · rw [← testBit_memRead m a (n := n) (by omega)]
    congr 2
    omega
  · simp [hb]

/-- A field of 64 bits at a multiple of 64 is the element there. -/
theorem fieldAt_readWord (m : Memory) (a : Nat) {n c : Nat} (h : c < n) :
    fieldAt (8 * (8 * n)) (memRead m a (8 * n)) (c * 64) 64 = (readWord m (a + 8 * c)).toNat := by
  refine Nat.eq_of_testBit_eq fun b => ?_
  rw [testBit_fieldAt_memRead m a (by omega), BitVec.testBit_toNat]
  by_cases hb : b < 64
  · rw [getLsbD_readWord m _ hb, streamBit_add, decide_eq_true hb, Bool.true_and]
    congr 1
    omega
  · rw [decide_eq_false hb, Bool.false_and, BitVec.getLsbD_of_ge _ _ (by omega)]

@[simp] theorem length_splitFields (w c len stream : Nat) : (splitFields w c len stream).length = c := by
  simp [splitFields]

theorem getD_splitFields {w c j : Nat} (len stream : Nat) (h : j < c) :
    (splitFields w c len stream).getD j 0 = fieldAt len stream (j * w) w := by
  simp [splitFields, List.getD_eq_getElem?_getD, List.getElem?_range h]

theorem joinFields_append (w : Nat) (vs : List Nat) (v : Nat) :
    joinFields w (vs ++ [v]) = 2 ^ w * joinFields w vs + v % 2 ^ w := by
  rw [joinFields, List.foldl_append, Nat.mul_comm]
  rfl

theorem joinFields_lt (w : Nat) (vs : List Nat) : joinFields w vs < 2 ^ (vs.length * w) := by
  induction vs using List.reverseRecOn with
  | nil => simp [joinFields]
  | append_singleton vs v ih =>
    have hv := Nat.mod_lt v (Nat.two_pow_pos w)
    rw [joinFields_append, List.length_append, List.length_singleton, Nat.succ_mul, Nat.pow_add, Nat.mul_comm (2 ^ _)]
    calc joinFields w vs * 2 ^ w + v % 2 ^ w
        < (joinFields w vs + 1) * 2 ^ w := by rw [Nat.succ_mul]; omega
      _ ≤ 2 ^ (vs.length * w) * 2 ^ w := Nat.mul_le_mul_right _ ih

/-- Stream bit `q` of joined fields is a bit of field `q / w`, its most significant first. -/
theorem testBit_joinFields {w : Nat} (vs : List Nat) {q : Nat} (h : q < vs.length * w) :
    (joinFields w vs).testBit (vs.length * w - 1 - q) = (vs.getD (q / w) 0).testBit (w - 1 - q % w) := by
  induction vs using List.reverseRecOn with
  | nil => simp at h
  | append_singleton vs v ih =>
    have hw : 0 < w := Nat.pos_of_ne_zero fun h0 => by simp [h0] at h
    rw [List.length_append, List.length_singleton, Nat.succ_mul] at h ⊢
    rw [joinFields_append, Nat.testBit_two_pow_mul_add _ (Nat.mod_lt v (Nat.two_pow_pos w))]
    by_cases hq : q < vs.length * w
    · have hdiv : q / w < vs.length := (Nat.div_lt_iff_lt_mul hw).2 hq
      rw [if_neg (by omega), List.getD_append _ _ _ _ hdiv, ← ih hq]
      congr 1
      omega
    · obtain ⟨r, rfl⟩ := Nat.exists_eq_add_of_le (not_lt.1 hq)
      obtain ⟨hdiv, hmod⟩ := mul_add_div_mod (w := w) (r := r) vs.length (by omega)
      rw [if_pos (by omega), Nat.testBit_mod_two_pow, decide_eq_true (by omega), Bool.true_and, hdiv, hmod,
        List.getD_append_right _ _ _ _ le_rfl, Nat.sub_self, List.getD_cons_zero]
      congr 1
      omega

/-- Joined fields in front of padding bits: stream bit `q` is a bit of field `q / w`, and 0 past the last field. -/
theorem testBit_paddedFields {w total : Nat} (vs : List Nat) (hlen : vs.length * w ≤ total) {q : Nat} (hq : q < total) :
    (joinFields w vs * 2 ^ (total - vs.length * w)).testBit (total - 1 - q) =
      (decide (q < vs.length * w) && (vs.getD (q / w) 0).testBit (w - 1 - q % w)) := by
  rw [Nat.testBit_mul_two_pow]
  by_cases h : q < vs.length * w
  · have hbit : total - 1 - q - (total - vs.length * w) = vs.length * w - 1 - q := by omega
    rw [hbit, decide_eq_true h, decide_eq_true (by omega), Bool.true_and, Bool.true_and, ← testBit_joinFields vs h]
  · rw [decide_eq_false h, decide_eq_false (by omega), Bool.false_and, Bool.false_and]

theorem paddedFields_lt {w total : Nat} (vs : List Nat) (hlen : vs.length * w ≤ total) :
    joinFields w vs * 2 ^ (total - vs.length * w) < 2 ^ total := by
  calc joinFields w vs * 2 ^ (total - vs.length * w)
      < 2 ^ (vs.length * w) * 2 ^ (total - vs.length * w) :=
        Nat.mul_lt_mul_of_pos_right (joinFields_lt w vs) (Nat.two_pow_pos _)
    _ = 2 ^ total := by rw [← Nat.pow_add, Nat.add_sub_cancel' hlen]

/-- Splitting joined fields gives them back, masked to their width. -/
theorem splitFields_paddedFields {w total : Nat} (vs : List Nat) (hlen : vs.length * w ≤ total) :
    splitFields w vs.length total (joinFields w vs * 2 ^ (total - vs.length * w)) = vs.map (· % 2 ^ w) := by
  refine List.ext_getElem (by simp) fun k hk hk' => ?_
  rw [length_splitFields] at hk
  have hend : k * w + w ≤ vs.length * w := by
    rw [← Nat.succ_mul]
    exact Nat.mul_le_mul_right _ hk
  rw [← List.getD_eq_getElem _ 0, getD_splitFields _ _ hk, List.getElem_map]
  refine Nat.eq_of_testBit_eq fun b => ?_
  rw [testBit_fieldAt, Nat.testBit_mod_two_pow]
  by_cases hb : b < w
  · obtain ⟨hdiv, hmod⟩ := mul_add_div_mod (w := w) (r := w - 1 - b) k (by omega)
    rw [show total - (k * w + w) + b = total - 1 - (k * w + (w - 1 - b)) by omega,
      testBit_paddedFields vs hlen (by omega), hdiv, hmod, decide_eq_true (show k * w + (w - 1 - b) < _ by omega),
      Bool.true_and, List.getD_eq_getElem _ _ hk, show w - 1 - (w - 1 - b) = b by omega]
  · rw [decide_eq_false hb, Bool.false_and, Bool.false_and]

end Sys2Proof.Machine
end

section
/-! PROOFS. The bit packer's commands over disjoint arrays inside the data memory (40_bitpack R203 to R206): what each
writes, bit by bit, and that it writes nothing else. -/

namespace Sys2Proof.Machine

/-! ## The outcome of a command whose checks pass -/

section Outcome

variable {w : Nat} {f : Format} {s : State} {i : Instr} {b : BpArrays} {src dst : Check}

/-- The source and the destination share no byte. -/
def BpDisjoint (b : BpArrays) : Prop := b.src + b.srcBytes ≤ b.dst ∨ b.dst + b.dstBytes ≤ b.src

theorem bpOverlap_of_disjoint (h : BpDisjoint b) : bpOverlap b = false := by
  unfold BpDisjoint at h
  simp only [bpOverlap, rangesMeet, Bool.and_eq_false_iff, decide_eq_false_iff_not]
  omega

theorem bpDecode_outcome
    (hx : exec i s = s.conclude ((checkWidth w f).or (unlessNoIterations s (src.or dst))) fun _ => bpDecode w f b s)
    (hw : checkWidth w f = none) (hsrc : src = none) (hdst : dst = none) (hb : BpDisjoint b) :
    exec i s = .next ({ s with mem := writeWords s.mem b.dst (bpDecoded w f s.mem b) }).complete := by
  have hc : unlessNoIterations s (src.or dst) = none :=
    (unlessNoIterations_eq_none ..).2 fun _ => Option.or_eq_none_iff.2 ⟨hsrc, hdst⟩
  rw [hx, hw, Option.none_or, hc, conclude_none, bpDecode, bpOverlap_of_disjoint hb]
  rfl

theorem bpEncode_outcome
    (hx : exec i s = s.conclude ((checkWidth w f).or (unlessNoIterations s (src.or dst))) fun _ => bpEncode w f b s)
    (hw : checkWidth w f = none) (hsrc : src = none) (hdst : dst = none) (hb : BpDisjoint b) :
    exec i s = .next ({ s with mem := memWrite s.mem b.dst b.dstBytes (bpEncoded w f s.mem b) }).complete := by
  have hc : unlessNoIterations s (src.or dst) = none :=
    (unlessNoIterations_eq_none ..).2 fun _ => Option.or_eq_none_iff.2 ⟨hsrc, hdst⟩
  rw [hx, hw, Option.none_or, hc, conclude_none, bpEncode, bpOverlap_of_disjoint hb]
  rfl

end Outcome

/-! ## Lists of values -/

theorem getD_map_u64 (xs : List Nat) (j : Nat) : (xs.map u64).getD j 0 = u64 (xs.getD j 0) := List.getD_map _ 0 u64

theorem getD_map_toNat (vs : List Word) (j : Nat) : (vs.map BitVec.toNat).getD j 0 = (vs.getD j 0).toNat :=
  List.getD_map _ 0 BitVec.toNat

@[simp] theorem length_readWords (m : Memory) (a n : Nat) : (readWords m a n).length = n := by simp [readWords]

theorem getD_readWords (m : Memory) (a : Nat) {n k : Nat} (h : k < n) :
    (readWords m a n).getD k 0 = readWord m (a + 8 * k) := by
  simp [readWords, List.getD_eq_getElem?_getD, List.getElem?_range h]

theorem length_flatMap_of_length {α β : Type} {f : α → List β} {k : Nat} (hf : ∀ x, (f x).length = k) (l : List α) :
    (l.flatMap f).length = l.length * k := by
  simp [List.length_flatMap, hf]

/-- Pieces of one length in a row: entry `j` is entry `j mod k` of piece `j div k`. -/
theorem getD_flatMap_of_length {f : Nat → List Nat} {k : Nat} (hf : ∀ x, (f x).length = k) (l : List Nat) {j : Nat}
    (h : j < l.length * k) : (l.flatMap f).getD j 0 = (f (l.getD (j / k) 0)).getD (j % k) 0 := by
  have hk : 0 < k := Nat.pos_of_ne_zero fun h0 => by simp [h0] at h
  induction l generalizing j with
  | nil => simp at h
  | cons x t ih =>
    rw [List.flatMap_cons]
    by_cases hj : j < k
    · rw [List.getD_append _ _ _ _ (by rwa [hf]), Nat.div_eq_of_lt hj, Nat.mod_eq_of_lt hj, List.getD_cons_zero]
    · rw [List.length_cons, Nat.succ_mul] at h
      rw [List.getD_append_right _ _ _ _ (by rw [hf]; omega), hf, ih (by omega), Nat.div_eq_sub_div hk (not_lt.1 hj),
        List.getD_cons_succ, Nat.mod_eq_sub_mod (not_lt.1 hj)]

theorem getD_take_drop (vs : List Nat) {a k j : Nat} (h : j < k) :
    ((vs.drop a).take k).getD j 0 = vs.getD (a + j) 0 := by
  simp [List.getD_eq_getElem?_getD, h]

/-! ## Decoding -/

section Decoding

variable {w n : Nat} {b : BpArrays} {m : Memory}

theorem length_bpDecoded_packed : (bpDecoded w .packed m b).length = b.values := by
  rw [bpDecoded, List.length_map, unpackArray, length_splitFields]

/-- The values decoded from PACKED data, bit by bit (30_encoding R150, R155). -/
theorem getLsbD_bpDecoded_packed (hbits : b.values * w = 8 * b.srcBytes) {j k : Nat} (hj : j < b.values)
    (hk : k < 64) : ((bpDecoded w .packed m b).getD j 0).getLsbD k =
      (decide (k < w) && streamBit m b.src (j * w + (w - 1 - k))) := by
  have hend : j * w + w ≤ 8 * b.srcBytes := by
    rw [← hbits, ← Nat.succ_mul]
    exact Nat.mul_le_mul_right w hj
  rw [bpDecoded, unpackArray, getD_map_u64, BitVec.getLsbD_ofNat, getD_splitFields _ _ hj,
    testBit_fieldAt_memRead m b.src hend, decide_eq_true hk, Bool.true_and]

/-- What decoding PACKED data leaves in the memory. -/
theorem decoded_packed (hm : m.wf) (hbits : b.values * w = 8 * b.srcBytes) :
    sameOutside m (writeWords m b.dst (bpDecoded w .packed m b)) b.dst (8 * b.values) ∧
    ∀ j k, j < b.values → k < 64 → (readWord (writeWords m b.dst (bpDecoded w .packed m b)) (b.dst + 8 * j)).getLsbD k =
      (decide (k < w) && streamBit m b.src (j * w + (w - 1 - k))) := by
  refine ⟨?_, fun j k hj hk => ?_⟩
  · have := sameOutside_writeWords m b.dst (bpDecoded w .packed m b)
    rwa [length_bpDecoded_packed] at this
  · rw [readWord_writeWords m b.dst _ hm j (by rwa [length_bpDecoded_packed]), getLsbD_bpDecoded_packed hbits hj hk]

theorem length_singleBlockValues (w x : Nat) : (singleBlockValues w x).length = 64 / w := by simp [singleBlockValues]

theorem getD_singleBlockValues {j : Nat} (x : Nat) (h : j < 64 / w) :
    (singleBlockValues w x).getD j 0 = x / 2 ^ (j * w) % 2 ^ w := by
  simp [singleBlockValues, List.getD_eq_getElem?_getD, List.getElem?_range h]

section SingleBlock

variable (hsrc : b.srcBytes = 8 * n) (hval : b.values = n * (64 / w))
include hsrc hval

theorem length_bpDecoded_singleBlock : (bpDecoded w .singleBlock m b).length = b.values := by
  rw [bpDecoded, List.length_map, unpackArray, List.length_take, length_flatMap_of_length (length_singleBlockValues w),
    length_splitFields, hsrc, Nat.mul_div_cancel_left n (by decide), ← hval, Nat.min_self]

/-- The values decoded from PACKED_SINGLE_BLOCK words (30_encoding R153, R155). -/
theorem toNat_bpDecoded_singleBlock (hw : w ≤ 64) {j : Nat} (hj : j < b.values) :
    ((bpDecoded w .singleBlock m b).getD j 0).toNat =
      (readWord m (b.src + 8 * (j / (64 / w)))).toNat / 2 ^ (w * (j % (64 / w))) % 2 ^ w := by
  rw [hval] at hj
  have hk : 0 < 64 / w := Nat.pos_of_ne_zero fun h0 => by simp [h0] at hj
  have hword : j / (64 / w) < n := (Nat.div_lt_iff_lt_mul hk).2 hj
  have hlt (x : Nat) : x % 2 ^ w < 2 ^ 64 :=
    (Nat.mod_lt x (Nat.two_pow_pos w)).trans_le (Nat.pow_le_pow_right (by decide) hw)
  have htake (l : List Nat) : (l.take b.values).getD j 0 = l.getD j 0 := by
    simpa using getD_take_drop l (a := 0) (hval ▸ hj)
  rw [bpDecoded, unpackArray, getD_map_u64, htake, hsrc, Nat.mul_div_cancel_left n (by decide),
    getD_flatMap_of_length (length_singleBlockValues w) _ (by rwa [length_splitFields]), getD_splitFields _ _ hword,
    fieldAt_readWord m b.src hword, getD_singleBlockValues _ (Nat.mod_lt j hk), BitVec.toNat_ofNat,
    Nat.mod_eq_of_lt (hlt _), Nat.mul_comm w]

/-- What decoding PACKED_SINGLE_BLOCK words leaves in the memory. -/
theorem decoded_singleBlock (hm : m.wf) (hw : w ≤ 64) :
    sameOutside m (writeWords m b.dst (bpDecoded w .singleBlock m b)) b.dst (8 * b.values) ∧
    ∀ j, j < b.values → (readWord (writeWords m b.dst (bpDecoded w .singleBlock m b)) (b.dst + 8 * j)).toNat =
      (readWord m (b.src + 8 * (j / (64 / w)))).toNat / 2 ^ (w * (j % (64 / w))) % 2 ^ w := by
  have hlen : (bpDecoded w .singleBlock m b).length = b.values := length_bpDecoded_singleBlock hsrc hval
  refine ⟨?_, fun j hj => ?_⟩
  · have := sameOutside_writeWords m b.dst (bpDecoded w .singleBlock m b)
    rwa [hlen] at this
  · rw [readWord_writeWords m b.dst _ hm j (by rwa [hlen]), toNat_bpDecoded_singleBlock hsrc hval hw hj]

end SingleBlock

end Decoding

/-! ## Encoding -/

section Encoding

variable {w n : Nat} {b : BpArrays} {m : Memory}

/-- What encoding to PACKED data leaves in the memory (30_encoding R150, R151). -/
theorem encoded_packed (hm : m.wf) (hbits : b.values * w = 8 * b.dstBytes) {q : Nat} (hq : q < 8 * b.dstBytes) :
    streamBit (memWrite m b.dst b.dstBytes (bpEncoded w .packed m b)) b.dst q =
      (readWord m (b.src + 8 * (q / w))).getLsbD (w - 1 - q % w) := by
  have hw : 0 < w := Nat.pos_of_ne_zero fun h0 => by simp [h0] at hbits; omega
  have hval : q / w < b.values := (Nat.div_lt_iff_lt_mul hw).2 (hbits ▸ hq)
  have hlen : ((readWords m b.src b.values).map BitVec.toNat).length = b.values := by simp
  have hjoin := testBit_joinFields ((readWords m b.src b.values).map BitVec.toNat) (w := w) (q := q)
    (by rwa [hlen, hbits])
  rw [hlen, hbits] at hjoin
  rw [streamBit_memWrite hm b.dst hq, bpEncoded, packArray, hjoin, getD_map_toNat, BitVec.testBit_toNat,
    getD_readWords m b.src hval]

/-- Fields of `w` bits side by side, the first least significant: the sum fits, and each bit is one of a field. -/
theorem sum_fields (hw : 0 < w) (f : Nat → Nat) (n : Nat) :
    ((List.range n).map fun j => f j % 2 ^ w * 2 ^ (j * w)).sum < 2 ^ (n * w) ∧
    ∀ k, ((List.range n).map fun j => f j % 2 ^ w * 2 ^ (j * w)).sum.testBit k =
      (decide (k < n * w) && (f (k / w)).testBit (k % w)) := by
  induction n with
  | zero => simp
  | succ n ih =>
    obtain ⟨hlt, hbit⟩ := ih
    have hf := Nat.mod_lt (f n) (Nat.two_pow_pos w)
    rw [List.range_succ, List.map_append, List.sum_append, List.map_singleton, List.sum_singleton, Nat.add_comm,
      Nat.mul_comm (f n % 2 ^ w), Nat.succ_mul]
    refine ⟨?_, fun k => ?_⟩
    · calc 2 ^ (n * w) * (f n % 2 ^ w) + _ < 2 ^ (n * w) * (f n % 2 ^ w) + 2 ^ (n * w) := by omega
        _ = 2 ^ (n * w) * (f n % 2 ^ w + 1) := by ring
        _ ≤ 2 ^ (n * w) * 2 ^ w := Nat.mul_le_mul_left _ hf
        _ = 2 ^ (n * w + w) := (Nat.pow_add ..).symm
    · rw [Nat.testBit_two_pow_mul_add _ hlt]
      by_cases hk : k < n * w
      · rw [if_pos hk, hbit, decide_eq_true hk, decide_eq_true (by omega)]
      · obtain ⟨r, rfl⟩ := Nat.exists_eq_add_of_le (not_lt.1 hk)
        rw [if_neg hk, Nat.testBit_mod_two_pow, Nat.add_sub_cancel_left]
        by_cases hr : r < w
        · obtain ⟨hdiv, hmod⟩ := mul_add_div_mod n hr
          rw [hdiv, hmod, decide_eq_true hr, decide_eq_true (by omega)]
        · rw [decide_eq_false hr, decide_eq_false (by omega), Bool.false_and, Bool.false_and]

/-- Bit `k` of a PACKED_SINGLE_BLOCK word (30_encoding R153). -/
theorem testBit_singleBlockWord (hw : 0 < w) (vs : List Nat) (k : Nat) : (singleBlockWord w vs).testBit k =
    (decide (k < vs.length * w) && (vs.getD (k / w) 0).testBit (k % w)) :=
  (sum_fields hw (fun j => vs.getD j 0) vs.length).2 k

/-- What encoding to PACKED_SINGLE_BLOCK words leaves in the memory (30_encoding R153). -/
theorem encoded_singleBlock (hm : m.wf) (hw : 0 < w) (hw' : w ≤ 64) (hdst : b.dstBytes = 8 * n)
    (hval : b.values = n * (64 / w)) {c k : Nat} (hc : c < n) (hk : k < 64) :
    (readWord (memWrite m b.dst b.dstBytes (bpEncoded w .singleBlock m b)) (b.dst + 8 * c)).getLsbD k =
      (decide (k < 64 / w * w) && (readWord m (b.src + 8 * (c * (64 / w) + k / w))).getLsbD (k % w)) := by
  have hpos : 0 < 64 / w := Nat.div_pos hw' hw
  have hend : c * (64 / w) + 64 / w ≤ n * (64 / w) := by
    rw [← Nat.succ_mul]
    exact Nat.mul_le_mul_right _ hc
  generalize hvs : (readWords m b.src b.values).map BitVec.toNat = vs
  have hlen : vs.length = n * (64 / w) := by rw [← hvs, List.length_map, length_readWords, hval]
  generalize hblocks : (List.range (vs.length / (64 / w))).map
    (fun a => singleBlockWord w ((vs.drop (a * (64 / w))).take (64 / w))) = blocks
  have hcount : blocks.length = n := by
    rw [← hblocks, List.length_map, List.length_range, hlen, Nat.mul_div_cancel n hpos]
  have hblock : blocks.getD c 0 = singleBlockWord w ((vs.drop (c * (64 / w))).take (64 / w)) := by
    have hc' : c < vs.length / (64 / w) := by rwa [hlen, Nat.mul_div_cancel n hpos]
    simp [← hblocks, List.getD_eq_getElem?_getD, List.getElem?_range hc']
  have hjoin := testBit_joinFields blocks (w := 64) (q := 8 * (8 * c) + (63 - k)) (by omega)
  rw [show (8 * (8 * c) + (63 - k)) / 64 = c by omega, show 64 - 1 - (8 * (8 * c) + (63 - k)) % 64 = k by omega,
    hblock, testBit_singleBlockWord hw, List.length_take, List.length_drop, hlen,
    Nat.min_eq_left (by omega)] at hjoin
  rw [getLsbD_readWord _ _ hk, streamBit_add, streamBit_memWrite hm b.dst (by omega), bpEncoded, packArray, hvs]
  rw [hblocks, show 8 * b.dstBytes = blocks.length * 64 by omega, hjoin]
  by_cases hkw : k < 64 / w * w
  · have hdiv : k / w < 64 / w := (Nat.div_lt_iff_lt_mul hw).2 hkw
    rw [getD_take_drop vs hdiv, ← hvs, getD_map_toNat, getD_readWords m b.src (by omega), BitVec.testBit_toNat]
  · rw [decide_eq_false hkw, Bool.false_and, Bool.false_and]

end Encoding

/-! ## The statements -/

/-- The blocks of the PACKED geometry hold their values' bits (30_encoding R152). -/
theorem packed_bits (it w n : Nat) : it * (n / Nat.gcd w n) * w = n * (it * (w / Nat.gcd w n)) := by
  rw [Nat.mul_assoc, Nat.mul_comm _ w, mul_div_gcd, Nat.mul_left_comm]

theorem packed_bits_words (it w : Nat) : it * (64 / Nat.gcd w 64) * w = 8 * (8 * (it * (w / Nat.gcd w 64))) := by
  rw [packed_bits]
  omega

/-- Settles O22: the outcome over disjoint arrays, and the decoded values bit by bit. -/
theorem bpDecodePacked : Obligations.BpDecodePacked := by
  intro s w hw hw' hm
  have hwidth : checkWidth w .packed = none := require_pos ⟨hw, hw'⟩ ..
  constructor
  · intro src dst nv nw hsrc hdst hsrcEnd hdstEnd hdis
    exact ⟨_, bpDecode_outcome (b := bpArraysDecLL w .packed s) rfl hwidth (checkArray64_of_inside hsrc hsrcEnd)
      (checkArray64_of_inside hdst hdstEnd) hdis, rfl,
      decoded_packed (b := bpArraysDecLL w .packed s) hm (packed_bits_words ..)⟩
  · intro src dst nv nb hdst hsrcEnd hdstEnd hdis
    exact ⟨_, bpDecode_outcome (b := bpArraysDecBL w .packed s) rfl hwidth ((checkBytes_eq_none ..).2 hsrcEnd)
      (checkArray64_of_inside hdst hdstEnd) hdis, rfl,
      decoded_packed (b := bpArraysDecBL w .packed s) hm (packed_bits ..)⟩

/-- Settles O23: the outcome over disjoint arrays, and the decoded fields of each word. -/
theorem bpDecodeSingleBlock : Obligations.BpDecodeSingleBlock := by
  intro s w hw hm k nv dst hdst hdstEnd
  have hwidth : checkWidth w .singleBlock = none := require_pos hw ..
  have hw' : w ≤ 64 := (sbWidths_bounds hw).2.trans (by decide)
  constructor
  · intro src hsrc hsrcEnd hdis
    have hsize : (bpArraysDecLL w .singleBlock s).srcBytes = 8 * s.args.a4.toNat := by
      simp [bpArraysDecLL, geom]
    exact ⟨_, bpDecode_outcome (b := bpArraysDecLL w .singleBlock s) rfl hwidth
      (hsize ▸ checkArray64_of_inside hsrc hsrcEnd) (checkArray64_of_inside hdst hdstEnd)
      (by rwa [BpDisjoint, hsize]), rfl,
      decoded_singleBlock (b := bpArraysDecLL w .singleBlock s) hsize rfl hm hw'⟩
  · intro src hsrcEnd hdis
    have hsize : (bpArraysDecBL w .singleBlock s).srcBytes = 8 * s.args.a4.toNat := Nat.mul_comm ..
    exact ⟨_, bpDecode_outcome (b := bpArraysDecBL w .singleBlock s) rfl hwidth
      ((checkBytes_eq_none ..).2 (hsize ▸ hsrcEnd)) (checkArray64_of_inside hdst hdstEnd)
      (by rwa [BpDisjoint, hsize]), rfl,
      decoded_singleBlock (b := bpArraysDecBL w .singleBlock s) hsize rfl hm hw'⟩

/-- Settles O24: the outcome over disjoint arrays, and the stream bits of the joined values. -/
theorem bpEncodePacked : Obligations.BpEncodePacked := by
  intro s w hw hw' hm src hsrc
  have hwidth : checkWidth w .packed = none := require_pos ⟨hw, hw'⟩ ..
  constructor
  · intro dst nv nw hdst hsrcEnd hdstEnd hdis
    refine ⟨_, bpEncode_outcome (b := bpArraysEncLL w .packed s) rfl hwidth (checkArray64_of_inside hsrc hsrcEnd)
      (checkArray64_of_inside hdst hdstEnd) hdis, rfl, sameOutside_memWrite _ _ _ _, fun q hq => ?_⟩
    exact encoded_packed (b := bpArraysEncLL w .packed s) hm (packed_bits_words ..)
      (show q < 8 * (8 * nw) by omega)
  · intro dst nv nb hsrcEnd hdstEnd hdis
    exact ⟨_, bpEncode_outcome (b := bpArraysEncLB w .packed s) rfl hwidth (checkArray64_of_inside hsrc hsrcEnd)
      ((checkBytes_eq_none ..).2 hdstEnd) hdis, rfl, sameOutside_memWrite _ _ _ _, fun q hq =>
      encoded_packed (b := bpArraysEncLB w .packed s) hm (packed_bits ..) hq⟩

/-- Settles O25: the outcome over disjoint arrays, and the bits of each word that is written. -/
theorem bpEncodeSingleBlock : Obligations.BpEncodeSingleBlock := by
  intro s w hw hm k nv nb src hsrc hsrcEnd
  have hwidth : checkWidth w .singleBlock = none := require_pos hw ..
  obtain ⟨hpos, hle⟩ := sbWidths_bounds hw
  have hw' : w ≤ 64 := hle.trans (by decide)
  constructor
  · intro dst hdst hdstEnd hdis
    have hsize : (bpArraysEncLL w .singleBlock s).dstBytes = nb := by simp [bpArraysEncLL, geom, nb]
    refine ⟨_, bpEncode_outcome (b := bpArraysEncLL w .singleBlock s) rfl hwidth (checkArray64_of_inside hsrc hsrcEnd)
      (hsize ▸ checkArray64_of_inside hdst hdstEnd) (by rwa [BpDisjoint, hsize]), rfl, ?_, fun c b hc hb =>
      encoded_singleBlock (b := bpArraysEncLL w .singleBlock s) hm hpos hw' hsize rfl hc hb⟩
    rw [← hsize]
    exact sameOutside_memWrite _ _ _ _
  · intro dst hdstEnd hdis
    have hsize : (bpArraysEncLB w .singleBlock s).dstBytes = nb := Nat.mul_comm ..
    refine ⟨_, bpEncode_outcome (b := bpArraysEncLB w .singleBlock s) rfl hwidth (checkArray64_of_inside hsrc hsrcEnd)
      ((checkBytes_eq_none ..).2 (hsize ▸ hdstEnd)) (by rwa [BpDisjoint, hsize]), rfl, ?_, fun c b hc hb =>
      encoded_singleBlock (b := bpArraysEncLB w .singleBlock s) hm hpos hw' hsize rfl hc hb⟩
    rw [← hsize]
    exact sameOutside_memWrite _ _ _ _

end Sys2Proof.Machine
end

section
/-! PROOFS. The Elias-Fano layout, bit by bit (30_encoding R180 to R185, 47_ef_decoder R474): what the three regions
hold for a sequence, and that the decoder finds exactly that sequence. -/

namespace Sys2Proof.Machine

/-! ## The upper region (R181) -/

/-- Where upper bit `t` stands in the region's byte stream: bit `t mod 64` of word `t div 64` (20_memory R102). -/
def upperPlace (t : Nat) : Nat := 64 * (t / 64) + (63 - t % 64)

theorem upperPlace_upperPlace (t : Nat) : upperPlace (upperPlace t) = t := by
  unfold upperPlace
  omega

theorem upperPlace_lt {uw t : Nat} (h : t < 64 * uw) : upperPlace t < 64 * uw := by
  unfold upperPlace
  omega

theorem upperBit_eq_streamBit (m : Memory) (ub t : Nat) : upperBit m ub t = streamBit m ub (upperPlace t) := by
  rw [upperBit, getLsbD_readWord m _ (Nat.mod_lt t (by decide)), streamBit_add, upperPlace]
  congr 1
  omega

theorem mem_efOnes {l i t : Nat} {xs : List Nat} :
    t ∈ efOnes l i xs ↔ ∃ k, k < xs.length ∧ t = i + k + xs.getD k 0 / 2 ^ l := by
  induction xs generalizing i with
  | nil => simp [efOnes]
  | cons x xs ih =>
    rw [efOnes, List.mem_cons, ih]
    constructor
    · rintro (rfl | ⟨k, hk, rfl⟩)
      · exact ⟨0, by simp, by simp [efHigh]⟩
      · exact ⟨k + 1, by simpa using hk, by simp; omega⟩
    · rintro ⟨_ | k, hk, rfl⟩
      · exact .inl (by simp [efHigh])
      · exact .inr ⟨k, by simpa using hk, by simp; omega⟩

/-- The one bits of a non-decreasing sequence rise. -/
theorem pairwise_efOnes {l i : Nat} {xs : List Nat} (h : xs.Pairwise (· ≤ ·)) : (efOnes l i xs).Pairwise (· < ·) := by
  induction xs generalizing i with
  | nil => exact List.Pairwise.nil
  | cons x xs ih =>
    obtain ⟨hx, hxs⟩ := List.pairwise_cons.1 h
    refine List.pairwise_cons.2 ⟨fun t ht => ?_, ih hxs⟩
    obtain ⟨k, hk, rfl⟩ := mem_efOnes.1 ht
    have hle : x ≤ xs.getD k 0 := by
      rw [List.getD_eq_getElem _ _ hk]
      exact hx _ (List.getElem_mem hk)
    have := Nat.div_le_div_right (c := 2 ^ l) hle
    unfold efHigh
    omega

theorem testBit_sum_two_pow {es : List Nat} (h : es.Nodup) (k : Nat) :
    (es.map (2 ^ ·)).sum.testBit k = decide (k ∈ es) := by
  rw [Bool.eq_iff_iff, decide_eq_true_iff, ← List.sum_toFinset _ h, ← Nat.mem_bitIndices, ← List.mem_toFinset,
    Finset.toFinset_bitIndices_sum_two_pow, List.mem_toFinset]

/-- The region's number has a one exactly at the listed positions. -/
theorem testBit_efUpperNumber {uw : Nat} {ones : List Nat} (hn : ones.Nodup) (hb : ∀ t ∈ ones, t < 64 * uw) (k : Nat) :
    (efUpperNumber uw ones).testBit k = decide (k ∈ ones.map fun t => 64 * uw - 1 - upperPlace t) := by
  have hmap : ones.map (fun t => 2 ^ (64 * (uw - 1 - t / 64) + t % 64)) =
      (ones.map fun t => 64 * uw - 1 - upperPlace t).map (2 ^ ·) := by
    rw [List.map_map]
    refine List.map_congr_left fun t ht => ?_
    have := hb t ht
    rw [Function.comp_apply, upperPlace]
    congr 1
    omega
  rw [efUpperNumber, hmap, testBit_sum_two_pow]
  refine hn.map_on fun t ht t' ht' h => ?_
  have h1 := upperPlace_lt (hb t ht)
  have h2 := upperPlace_lt (hb t' ht')
  rw [← upperPlace_upperPlace t, ← upperPlace_upperPlace t', show upperPlace t = upperPlace t' by omega]

/-- The upper region holds the number of the listed one bits exactly when these are its one bits. -/
theorem upper_eq_iff {m : Memory} {ub uw : Nat} {ones : List Nat} (hn : ones.Nodup) (hb : ∀ t ∈ ones, t < 64 * uw) :
    memRead m ub (8 * uw) = efUpperNumber uw ones ↔
      ∀ t, t < 64 * uw → (upperBit m ub t = true ↔ t ∈ ones) := by
  have hlt : efUpperNumber uw ones < 2 ^ (8 * (8 * uw)) := by
    refine Nat.lt_pow_two_of_testBit _ fun k hk => ?_
    rw [testBit_efUpperNumber hn hb, decide_eq_false_iff_not, List.mem_map]
    rintro ⟨t, ht, rfl⟩
    have := hb t ht
    omega
  have hbit {t : Nat} (ht : t < 64 * uw) :
      (efUpperNumber uw ones).testBit (8 * (8 * uw) - 1 - upperPlace t) = true ↔ t ∈ ones := by
    have hp := upperPlace_lt ht
    rw [testBit_efUpperNumber hn hb, decide_eq_true_iff, List.mem_map]
    refine ⟨fun ⟨t', ht', h⟩ => ?_, fun h => ⟨t, h, by omega⟩⟩
    have hp' := upperPlace_lt (hb t' ht')
    rwa [← upperPlace_upperPlace t, show upperPlace t = upperPlace t' by omega, upperPlace_upperPlace]
  rw [memRead_eq_iff hlt]
  refine ⟨fun h t ht => ?_, fun h q hq => ?_⟩
  · have hp := upperPlace_lt ht
    rw [upperBit_eq_streamBit, h _ (by omega), hbit ht]
  · have hp := upperPlace_lt (uw := uw) (t := q) (by omega)
    have := h _ hp
    rw [upperBit_eq_streamBit, upperPlace_upperPlace, ← hbit hp, upperPlace_upperPlace] at this
    exact Bool.eq_iff_iff.2 this

/-! ## The lower and the index region (R182, R183) -/

/-- A PACKED region holds the fields exactly when its stream bits are theirs, and 0 past the last one. -/
theorem packed_eq_iff {m : Memory} {a words w : Nat} {vs : List Nat} (hlen : vs.length * w ≤ 64 * words) :
    memRead m a (8 * words) = efPackedNumber words w vs ↔ ∀ q, q < 64 * words →
      streamBit m a q = (decide (q < vs.length * w) && (vs.getD (q / w) 0).testBit (w - 1 - q % w)) := by
  have hlt : efPackedNumber words w vs < 2 ^ (8 * (8 * words)) := by
    rw [show 8 * (8 * words) = 64 * words by omega]
    exact paddedFields_lt vs hlen
  rw [memRead_eq_iff hlt, show 8 * (8 * words) = 64 * words by omega]
  exact forall₂_congr fun q hq => by rw [efPackedNumber, testBit_paddedFields vs hlen hq]

/-! ## What the regions hold -/

/-- The regions hold the sequence `xs` and the first `entries` index entries, bit by bit (R181 to R183); `xs` may be the
part of a sequence that is encoded so far. -/
structure EncodedBits (m : Memory) (y : EfLayout) (xs : List Nat) (entries : Nat) : Prop where
  upper : ∀ q, q < 64 * (efParamsOf y).uw →
    (upperBit m y.ub q = true ↔ ∃ i, i < xs.length ∧ q = i + xs.getD i 0 / 2 ^ (efParamsOf y).l)
  lower : ∀ q, q < 64 * (efParamsOf y).lw → streamBit m y.lb q =
    (decide (q < xs.length * (efParamsOf y).l) &&
      (xs.getD (q / (efParamsOf y).l) 0).testBit ((efParamsOf y).l - 1 - q % (efParamsOf y).l))
  index : ∀ q, q < 64 * (efParamsOf y).iw → streamBit m y.ib q = (decide (q < entries * (efParamsOf y).e) &&
    (efEntry (efParamsOf y).l y.i xs (q / (efParamsOf y).e)).testBit ((efParamsOf y).e - 1 - q % (efParamsOf y).e))

theorem le_64_mul_ceilDiv (n : Nat) : n ≤ 64 * ceilDiv n 64 := by
  unfold ceilDiv
  omega

/-- The values of a sequence that fits a layout (R185). -/
def SequenceFits (y : EfLayout) (xs : List Nat) : Prop := xs.length = y.n ∧ xs.Pairwise (· ≤ ·) ∧ ∀ x ∈ xs, x ≤ y.u

theorem efSequenceOk_iff {y : EfLayout} {xs : List Nat} : efSequenceOk y xs = true ↔ SequenceFits y xs := by
  simp [efSequenceOk, SequenceFits, and_assoc]

section Fits

variable {m : Memory} {y : EfLayout} {xs : List Nat}

/-- The one bits of a sequence that fits lie in the upper stream. -/
theorem SequenceFits.ones_lt (h : SequenceFits y xs) :
    ∀ t ∈ efOnes (efParamsOf y).l 0 xs, t < y.n + (efParamsOf y).h := by
  obtain ⟨hlen, -, hle⟩ := h
  intro t ht
  obtain ⟨k, hk, rfl⟩ := mem_efOnes.1 ht
  have hx : xs.getD k 0 ≤ y.u := by
    rw [List.getD_eq_getElem _ _ hk]
    exact hle _ (List.getElem_mem hk)
  have : xs.getD k 0 / 2 ^ (efParamsOf y).l ≤ (efParamsOf y).h := Nat.div_le_div_right hx
  omega

theorem SequenceFits.pairwise_ones (h : SequenceFits y xs) : (efOnes (efParamsOf y).l 0 xs).Pairwise (· < ·) :=
  pairwise_efOnes h.2.1

/-- Bit `q` of the list of all index entries. -/
theorem entryBit_eq (l i e : Nat) (xs : List Nat) (n q k : Nat) :
    (decide (q < n * e) && (((List.range n).map (efEntry l i xs)).getD (q / e) 0).testBit k) =
      (decide (q < n * e) && (efEntry l i xs (q / e)).testBit k) := by
  by_cases hq : q < n * e
  · have he : 0 < e := Nat.pos_of_ne_zero fun h0 => by simp [h0] at hq
    have hk : q / e < n := (Nat.div_lt_iff_lt_mul he).2 hq
    simp [List.getD_eq_getElem?_getD, List.getElem?_range hk]
  · rw [decide_eq_false hq, Bool.false_and, Bool.false_and]

theorem efHolds_iff (h : SequenceFits y xs) : efHolds m y xs = true ↔ EncodedBits m y xs (efParamsOf y).nidx := by
  have hones : ∀ t ∈ efOnes (efParamsOf y).l 0 xs, t < 64 * (efParamsOf y).uw := fun t ht =>
    (h.ones_lt t ht).trans_le (le_64_mul_ceilDiv _)
  have hlower : xs.length * (efParamsOf y).l ≤ 64 * (efParamsOf y).lw := by
    rw [h.1]
    exact le_64_mul_ceilDiv _
  have hentries : ((List.range (efParamsOf y).nidx).map (efEntry (efParamsOf y).l y.i xs)).length =
    (efParamsOf y).nidx := by simp
  have hindex : (efParamsOf y).nidx * (efParamsOf y).e ≤ 64 * (efParamsOf y).iw := le_64_mul_ceilDiv _
  have h1 := upper_eq_iff (m := m) (ub := y.ub) (h.pairwise_ones.imp Nat.ne_of_lt) hones
  have h2 := packed_eq_iff (m := m) (a := y.lb) hlower
  have h3 := packed_eq_iff (m := m) (a := y.ib) (hentries.symm ▸ hindex)
  simp only [hentries, entryBit_eq] at h3
  simp only [mem_efOnes, Nat.zero_add] at h1
  simp only [efHolds, Bool.and_eq_true, beq_iff_eq, h1, h2, h3]
  exact ⟨fun ⟨⟨hu, hl⟩, hi⟩ => ⟨hu, hl, hi⟩, fun ⟨hu, hl, hi⟩ => ⟨⟨hu, hl⟩, hi⟩⟩

/-! ## The decoder (47_ef_decoder R474) -/

/-- The high parts of the one bits and the low parts make up the values again. -/
theorem combineFrom_efOnes (l i : Nat) (xs : List Nat) : combineFrom l i (efOnes l i xs) (xs.map (· % 2 ^ l)) = xs := by
  induction xs generalizing i with
  | nil => rfl
  | cons x xs ih =>
    rw [efOnes, List.map_cons, combineFrom, ih, Nat.add_sub_cancel_left, efHigh, Nat.div_add_mod']

theorem onePositions_of_encoded (h : SequenceFits y xs) (hm : EncodedBits m y xs (efParamsOf y).nidx) :
    onePositions m y.ub (y.n + (efParamsOf y).h) = efOnes (efParamsOf y).l 0 xs := by
  refine List.Pairwise.eq_of_mem_iff (r := (· < ·)) (List.pairwise_lt_range.filter _) h.pairwise_ones fun t => ?_
  rw [onePositions, List.mem_filter, List.mem_range]
  have hup : y.n + (efParamsOf y).h ≤ 64 * (efParamsOf y).uw := le_64_mul_ceilDiv _
  have hones (ht : t < 64 * (efParamsOf y).uw) : upperBit m y.ub t = true ↔ t ∈ efOnes (efParamsOf y).l 0 xs := by
    simpa only [mem_efOnes, Nat.zero_add] using hm.upper t ht
  exact ⟨fun ⟨ht, hbit⟩ => (hones (by omega)).1 hbit,
    fun ht => ⟨h.ones_lt t ht, (hones (by have := h.ones_lt t ht; omega)).2 ht⟩⟩

theorem lowParts_of_encoded (h : SequenceFits y xs) (hm : EncodedBits m y xs (efParamsOf y).nidx) :
    splitFields (efParamsOf y).l y.n (64 * (efParamsOf y).lw) (memRead m y.lb (8 * (efParamsOf y).lw)) =
      xs.map (· % 2 ^ (efParamsOf y).l) := by
  have hlow : xs.length * (efParamsOf y).l ≤ 64 * (efParamsOf y).lw := by
    rw [h.1]
    exact le_64_mul_ceilDiv _
  rw [(packed_eq_iff hlow).2 hm.lower, efPackedNumber, ← h.1]
  exact splitFields_paddedFields xs hlow

theorem efDecoded_of_encoded (h : SequenceFits y xs) (hm : EncodedBits m y xs (efParamsOf y).nidx) :
    efDecoded m y = xs := by
  rw [efDecoded, onePositions_of_encoded h hm, lowParts_of_encoded h hm, combineFrom_efOnes]

theorem efSequence_eq_some_iff : efSequence m y = some xs ↔
    efOverlap y = false ∧ SequenceFits y xs ∧ EncodedBits m y xs (efParamsOf y).nidx := by
  have hsome : efSequence m y = some xs ↔
      (efOverlap y = false ∧ efSequenceOk y (efDecoded m y) = true ∧ efHolds m y (efDecoded m y) = true) ∧
        efDecoded m y = xs := by
    simp only [efSequence, Option.ite_none_right_eq_some, Bool.and_eq_true, Bool.not_eq_true', Option.some.injEq,
      and_assoc]
  rw [hsome]
  constructor
  · rintro ⟨⟨hov, hok, hholds⟩, rfl⟩
    have hfits := efSequenceOk_iff.1 hok
    exact ⟨hov, hfits, (efHolds_iff hfits).1 hholds⟩
  · rintro ⟨hov, hfits, hbits⟩
    rw [efDecoded_of_encoded hfits hbits]
    exact ⟨⟨hov, efSequenceOk_iff.2 hfits, (efHolds_iff hfits).2 hbits⟩, rfl⟩

end Fits

/-- Settles O52: the sequence the decoder tries is the encoded one, and the numbers of the regions are their bits. -/
theorem decodedSequenceIsTheEncoded : Obligations.DecodedSequenceIsTheEncoded := by
  intro m y xs
  rw [efSequence_eq_some_iff]
  constructor
  · rintro ⟨hov, ⟨hlen, hpair, hle⟩, hbits⟩
    exact ⟨hov, hlen, hpair, hle, hbits.upper, fun q hq => (hbits.lower q hq).trans (by rw [hlen, efParamsOf]),
      hbits.index⟩
  · rintro ⟨hov, hlen, hpair, hle, hupper, hlower, hindex⟩
    exact ⟨hov, ⟨hlen, hpair, hle⟩, hupper, fun q hq => by rw [hlen]; exact hlower q hq, hindex⟩

end Sys2Proof.Machine
end

section
/-! PROOFS. The writes of the Elias-Fano encoder, bit by bit (46_ef_encoder R431 to R435): one bit of the upper region,
one field of a packed region, the index entries in a row. -/

namespace Sys2Proof.Machine

/-! ## Frames (20_memory R100) -/

theorem sameOutside_mono {m m' : Memory} {a n b k : Nat} (h : sameOutside m m' a n) (hb : b ≤ a) (hk : a + n ≤ b + k) :
    sameOutside m m' b k := fun x hx => h x (by omega)

theorem sameOutside_trans {m m' m'' : Memory} {a n : Nat} (h : sameOutside m m' a n) (h' : sameOutside m' m'' a n) :
    sameOutside m m'' a n := fun x hx => (h' x hx).trans (h x hx)

theorem rangesMeet_comm (x y : Nat × Nat) : rangesMeet x y = rangesMeet y x := by
  rw [Bool.eq_iff_iff]
  simp only [rangesMeet, Bool.and_eq_true, decide_eq_true_eq]
  tauto

/-- A write into one range leaves the bits of a range that shares no byte with it. -/
theorem streamBit_of_disjoint {m m' : Memory} {a n b words q : Nat} (h : sameOutside m m' a n)
    (hd : rangesMeet (a, n) (b, 8 * words) = false) (hq : q < 64 * words) : streamBit m' b q = streamBit m b q := by
  simp only [rangesMeet, Bool.and_eq_false_iff, decide_eq_false_iff_not] at hd
  exact streamBit_congr (h _ (by omega))

theorem upperBit_of_disjoint {m m' : Memory} {a n b words q : Nat} (h : sameOutside m m' a n)
    (hd : rangesMeet (a, n) (b, 8 * words) = false) (hq : q < 64 * words) : upperBit m' b q = upperBit m b q := by
  rw [upperBit_eq_streamBit, upperBit_eq_streamBit, streamBit_of_disjoint h hd (upperPlace_lt hq)]

/-! ## One bit of the upper region (R431) -/

theorem setUpperBit_wf {m : Memory} (hm : m.wf) (ub t : Nat) : (setUpperBit m ub t).wf := writeWord_wf _ _ _ hm

theorem sameOutside_setUpperBit (m : Memory) (ub : Nat) {uw t : Nat} (ht : t < 64 * uw) :
    sameOutside m (setUpperBit m ub t) ub (8 * uw) :=
  sameOutside_mono (sameOutside_memWrite m (ub + 8 * (t / 64)) 8 _) (by omega) (by omega)

theorem upperBit_setUpperBit {m : Memory} (hm : m.wf) (ub t q : Nat) :
    upperBit (setUpperBit m ub t) ub q = (upperBit m ub q || decide (q = t)) := by
  by_cases hword : q / 64 = t / 64
  · rw [upperBit, setUpperBit, hword, readWord_writeWord _ _ _ hm, BitVec.getLsbD_or, BitVec.getLsbD_ofNat,
      Nat.testBit_two_pow, decide_eq_true (Nat.mod_lt q (by decide)), Bool.true_and, upperBit, hword]
    congr 2
    rw [eq_iff_iff]
    omega
  · have hsame : readWord (setUpperBit m ub t) (ub + 8 * (q / 64)) = readWord m (ub + 8 * (q / 64)) := by
      refine congrArg u64 (memRead_congr _ _ _ _ fun x h1 h2 => ?_)
      exact sameOutside_memWrite m (ub + 8 * (t / 64)) 8 _ x (by omega)
    rw [upperBit, hsame, upperBit, decide_eq_false (fun h => hword (by rw [h])), Bool.or_false]

/-! ## One field of a packed region (R431) -/

/-- A number with the `w` bits from `sh` on replaced. -/
theorem testBit_replaced (old v sh w k : Nat) :
    (old - old / 2 ^ sh % 2 ^ w * 2 ^ sh + v % 2 ^ w * 2 ^ sh).testBit k =
      if sh ≤ k ∧ k < sh + w then v.testBit (k - sh) else old.testBit k := by
  have hlow := Nat.mod_lt old (Nat.two_pow_pos sh)
  have hmid := Nat.mod_lt (old / 2 ^ sh) (Nat.two_pow_pos w)
  have hv := Nat.mod_lt v (Nat.two_pow_pos w)
  have hold : old = 2 ^ sh * (2 ^ w * (old / 2 ^ sh / 2 ^ w) + old / 2 ^ sh % 2 ^ w) + old % 2 ^ sh := by
    rw [Nat.div_add_mod, Nat.div_add_mod]
  generalize hhi : old / 2 ^ sh / 2 ^ w = hi at hold
  generalize old / 2 ^ sh % 2 ^ w = mid at hold hmid ⊢
  generalize old % 2 ^ sh = low at hold hlow
  have hnew : old - mid * 2 ^ sh + v % 2 ^ w * 2 ^ sh = 2 ^ sh * (2 ^ w * hi + v % 2 ^ w) + low := by
    have : old = 2 ^ sh * (2 ^ w * hi) + low + mid * 2 ^ sh := by rw [hold]; ring
    rw [this, Nat.add_sub_cancel]
    ring
  rw [hnew, hold, Nat.testBit_two_pow_mul_add _ hlow, Nat.testBit_two_pow_mul_add _ hlow,
    Nat.testBit_two_pow_mul_add _ hv, Nat.testBit_two_pow_mul_add _ hmid, Nat.testBit_mod_two_pow]
  by_cases hk : k < sh
  · rw [if_pos hk, if_pos hk, if_neg (by omega)]
  · by_cases hkw : k - sh < w
    · rw [if_neg hk, if_pos hkw, if_pos (by omega), decide_eq_true hkw, Bool.true_and]
    · rw [if_neg hk, if_neg hkw, if_neg hk, if_neg hkw, if_neg (by omega)]

theorem putPacked_wf {m : Memory} (hm : m.wf) (base w j v : Nat) : (putPacked m base w j v).wf := memWrite_wf _ _ _ _ hm

/-- Field `j` of an array of `c` fields of width `w` lies in the words of the array. -/
theorem sameOutside_putPacked (m : Memory) (base : Nat) {w j c : Nat} (hw : 0 < w) (hj : j < c) (v : Nat) :
    sameOutside m (putPacked m base w j v) base (8 * ceilDiv (c * w) 64) := by
  have hend : j * w + w ≤ c * w := by
    rw [← Nat.succ_mul]
    exact Nat.mul_le_mul_right w hj
  refine sameOutside_mono (sameOutside_memWrite m _ _ _) (by omega) ?_
  unfold ceilDiv
  omega

theorem streamBit_putPacked {m : Memory} (hm : m.wf) (base : Nat) {w : Nat} (hw : 0 < w) (j v q : Nat) :
    streamBit (putPacked m base w j v) base q =
      if j * w ≤ q ∧ q < j * w + w then v.testBit (w - 1 - (q - j * w)) else streamBit m base q := by
  unfold putPacked
  generalize j * w = pos
  dsimp only
  generalize hwords : (pos + w - 1) / 64 - pos / 64 + 1 = words
  generalize hfirst : pos / 64 = first at *
  by_cases hq : 64 * first ≤ q ∧ q < 64 * first + 64 * words
  · obtain ⟨r, rfl⟩ := Nat.exists_eq_add_of_le hq.1
    have hin : r < 8 * (8 * words) := by omega
    rw [show 64 * first + r = 8 * (8 * first) + r by omega, ← streamBit_add, ← streamBit_add,
      streamBit_memWrite hm _ hin, testBit_replaced, testBit_memRead _ _ hin]
    by_cases hf : pos ≤ 8 * (8 * first) + r ∧ 8 * (8 * first) + r < pos + w
    · rw [if_pos hf, if_pos (by omega)]
      congr 1
      omega
    · rw [if_neg hf, if_neg (by omega)]
  · rw [if_neg (by omega)]
    exact streamBit_congr (sameOutside_memWrite m _ _ _ _ (by omega))

/-! ## The index entries in a row (R432, R435) -/

section Entries

variable {c : EfEncoder} {bound : Option Nat} {cnt k next : Nat} {m : Memory}

theorem putEntries_succ_pos (h : bound.all (fun h => decide ((next + 1) * c.i.toNat ≤ h)) = true) :
    putEntries c bound cnt (k + 1) m next = putEntries c bound cnt k
      (putPacked m c.ib.toNat c.e.toNat next ((next + 1) * c.i.toNat + cnt)) (next + 1) := if_pos h

theorem putEntries_succ_neg (h : ¬ bound.all (fun h => decide ((next + 1) * c.i.toNat ≤ h)) = true) :
    putEntries c bound cnt (k + 1) m next = (m, next) := if_neg h

theorem le_putEntries_next (c : EfEncoder) (bound : Option Nat) (cnt k : Nat) (m : Memory) (next : Nat) :
    next ≤ (putEntries c bound cnt k m next).2 := by
  induction k generalizing m next with
  | zero => exact le_rfl
  | succ k ih =>
    by_cases h : bound.all (fun h => decide ((next + 1) * c.i.toNat ≤ h)) = true
    · rw [putEntries_succ_pos h]
      exact (Nat.le_succ next).trans (ih ..)
    · rw [putEntries_succ_neg h]

/-- Without a bound every entry is written. -/
theorem putEntries_next_none : (putEntries c none cnt k m next).2 = next + k := by
  induction k generalizing m next with
  | zero => rfl
  | succ k ih =>
    rw [putEntries_succ_pos rfl, ih]
    omega

/-- With a bound the entries up to it are written. -/
theorem putEntries_next_some (hi : 0 < c.i.toNat) (high : Nat) :
    (putEntries c (some high) cnt k m next).2 = max next (min (next + k) (high / c.i.toNat)) := by
  induction k generalizing m next with
  | zero => simp [putEntries]
  | succ k ih =>
    by_cases h : (next + 1) * c.i.toNat ≤ high
    · have := (Nat.le_div_iff_mul_le hi).2 h
      rw [putEntries_succ_pos (by simpa using h), ih]
      omega
    · have := (Nat.div_lt_iff_lt_mul hi).2 (not_le.1 h)
      rw [putEntries_succ_neg (by simpa using h)]
      omega

theorem putEntries_wf (hm : m.wf) (bound : Option Nat) (cnt k next : Nat) :
    (putEntries c bound cnt k m next).1.wf := by
  induction k generalizing m next with
  | zero => exact hm
  | succ k ih =>
    by_cases h : bound.all (fun h => decide ((next + 1) * c.i.toNat ≤ h)) = true
    · rw [putEntries_succ_pos h]
      exact ih (putPacked_wf hm ..) _
    · rwa [putEntries_succ_neg h]

theorem sameOutside_putEntries (bound : Option Nat) (cnt : Nat) (m : Memory) (he : 0 < k → 0 < c.e.toNat)
    (hk : next + k ≤ c.nidx.toNat) :
    sameOutside m (putEntries c bound cnt k m next).1 c.ib.toNat (8 * ceilDiv (c.nidx.toNat * c.e.toNat) 64) := by
  induction k generalizing m next with
  | zero => exact sameOutside_refl _ _ _
  | succ k ih =>
    have he := he (Nat.succ_pos k)
    by_cases h : bound.all (fun h => decide ((next + 1) * c.i.toNat ≤ h)) = true
    · rw [putEntries_succ_pos h]
      exact sameOutside_trans (sameOutside_putPacked m _ he (by omega : next < c.nidx.toNat) _)
        (ih _ (fun _ => he) (by omega))
    · rw [putEntries_succ_neg h]
      exact sameOutside_refl _ _ _

theorem streamBit_putEntries (hm : m.wf) (bound : Option Nat) (cnt : Nat) (he : 0 < k → 0 < c.e.toNat) (q : Nat) :
    streamBit (putEntries c bound cnt k m next).1 c.ib.toNat q =
      if next * c.e.toNat ≤ q ∧ q < (putEntries c bound cnt k m next).2 * c.e.toNat then
        ((q / c.e.toNat + 1) * c.i.toNat + cnt).testBit (c.e.toNat - 1 - q % c.e.toNat)
      else streamBit m c.ib.toNat q := by
  induction k generalizing m next with
  | zero => rw [if_neg (by simp only [putEntries]; omega)]; rfl
  | succ k ih =>
    have he := he (Nat.succ_pos k)
    by_cases h : bound.all (fun h => decide ((next + 1) * c.i.toNat ≤ h)) = true
    · rw [putEntries_succ_pos h, ih (putPacked_wf hm ..) (fun _ => he), streamBit_putPacked hm _ he, Nat.succ_mul]
      have hle := Nat.mul_le_mul_right c.e.toNat (le_putEntries_next c bound cnt k
        (putPacked m c.ib.toNat c.e.toNat next ((next + 1) * c.i.toNat + cnt)) (next + 1))
      rw [Nat.succ_mul] at hle
      by_cases hfirst : next * c.e.toNat ≤ q ∧ q < next * c.e.toNat + c.e.toNat
      · obtain ⟨r, rfl⟩ := Nat.exists_eq_add_of_le hfirst.1
        obtain ⟨hdiv, hmod⟩ := mul_add_div_mod (w := c.e.toNat) (r := r) next (by omega)
        rw [if_neg (by omega), if_pos hfirst, if_pos (by omega), hdiv, hmod, Nat.add_sub_cancel_left]
      · rw [if_neg hfirst]
        congr 1
        rw [eq_iff_iff]
        omega
    · rw [putEntries_succ_neg h, if_neg (by dsimp only; omega)]

end Entries

end Sys2Proof.Machine
end

section
/-! PROOFS. The commands of the Elias-Fano encoder over disjoint regions (46_ef_encoder R433 to R435), and that encoding
a sequence leaves its encoding (47_ef_decoder R484). -/

namespace Sys2Proof.Machine

/-! ## `EFE_INIT` (R433) -/

/-- A number that is not 0 has its most significant one at the top of its length. -/
theorem two_pow_bitlen_le (v : Nat) : bitlen v = 0 ∨ 2 ^ (bitlen v - 1) ≤ v := by
  unfold bitlen
  split
  · exact .inl rfl
  · next h => exact .inr (Nat.log2_self_le h)

theorem efLowBits_eq (n u : Nat) : efLowBits n u = if n = 0 ∨ u / n = 0 then 0 else Nat.log2 (u / n) := by
  unfold efLowBits bitlen
  split
  · rfl
  · next h => rw [if_neg (not_or.1 h).2, Nat.add_sub_cancel]

theorem readByte_zeroBytes {m : Memory} (hm : m.wf) (a n x : Nat) :
    readByte (zeroBytes m a n) x = if a ≤ x ∧ x < a + n then 0 else readByte m x := by
  by_cases h : a ≤ x ∧ x < a + n
  · obtain ⟨j, rfl⟩ := Nat.exists_eq_add_of_le h.1
    rw [if_pos h, zeroBytes, readByte_memWrite hm a (by omega), Nat.zero_div]
    rfl
  · rw [if_neg h]
    exact sameOutside_memWrite m a n 0 x (by omega)

/-- The regions of a layout, one by one. -/
theorem mem_efRegions {y : EfLayout} {r : Nat × Nat} : r ∈ efRegions y ↔
    r = (y.ub, 8 * (efParamsOf y).uw) ∨ r = (y.lb, 8 * (efParamsOf y).lw) ∨ r = (y.ib, 8 * (efParamsOf y).iw) := by
  simp [efRegions]

theorem readByte_zeroRegions {m : Memory} (hm : m.wf) (y : EfLayout) (x : Nat) : readByte (zeroRegions m y) x =
    if (y.ub ≤ x ∧ x < y.ub + 8 * (efParamsOf y).uw) ∨ (y.lb ≤ x ∧ x < y.lb + 8 * (efParamsOf y).lw) ∨
      (y.ib ≤ x ∧ x < y.ib + 8 * (efParamsOf y).iw) then 0 else readByte m x := by
  rw [zeroRegions, readByte_zeroBytes (zeroBytes_wf _ _ _ (zeroBytes_wf _ _ _ hm)),
    readByte_zeroBytes (zeroBytes_wf _ _ _ hm), readByte_zeroBytes hm]
  split_ifs with h1 h2 h3 h4 h5 h6 <;> tauto

theorem readByte_zeroRegions_inside {m : Memory} (hm : m.wf) {y : EfLayout} {r : Nat × Nat} {x : Nat}
    (hr : r ∈ efRegions y) (h1 : r.1 ≤ x) (h2 : x < r.1 + r.2) : readByte (zeroRegions m y) x = 0 := by
  rw [readByte_zeroRegions hm, if_pos]
  rcases mem_efRegions.1 hr with rfl | rfl | rfl
  · exact .inl ⟨h1, h2⟩
  · exact .inr (.inl ⟨h1, h2⟩)
  · exact .inr (.inr ⟨h1, h2⟩)

theorem sameOutsideRanges_zeroRegions {m : Memory} (hm : m.wf) (y : EfLayout) :
    sameOutsideRanges m (zeroRegions m y) (efRegions y) := by
  intro x hx
  have hub := hx _ (mem_efRegions.2 (.inl rfl))
  have hlb := hx _ (mem_efRegions.2 (.inr (.inl rfl)))
  have hib := hx _ (mem_efRegions.2 (.inr (.inr rfl)))
  rw [readByte_zeroRegions hm, if_neg (by omega)]

theorem checkEfInit_eq_none {p : Params} {y : EfLayout} (hu : y.u ≤ 2 ^ 63 - 1) (hi : 2 ≤ y.i)
    (hn : y.n ≤ p.efMaxValues) (hr : ∀ r ∈ efRegions y, r.2 = 0 ∨ (r.1 % 8 = 0 ∧ r.1 + r.2 ≤ p.memBytes)) :
    checkEfInit p y = none := by
  have hregion {base words : Nat} (h : (base, 8 * words) ∈ efRegions y) : checkEfRegion p base words = none := by
    unfold checkEfRegion
    split
    · rfl
    · next h0 => exact (checkArray64_eq_none ..).2 ((hr _ h).resolve_left (by dsimp only; omega))
  rw [checkEfInit, checkEfParams, checkEfRegions, require_pos hu, require_pos hi, require_pos hn,
    hregion (mem_efRegions.2 (.inl rfl)), hregion (mem_efRegions.2 (.inr (.inl rfl))),
    hregion (mem_efRegions.2 (.inr (.inr rfl)))]
  rfl

theorem settleRegions_of_disjoint {y : EfLayout} (h : efOverlap y = false) (s : State) : s.settleRegions y = s := by
  rw [State.settleRegions, h]
  rfl

theorem overlapResult_of_disjoint {y : EfLayout} (h : efOverlap y = false) (s : State) (v : Word) :
    s.overlapResult y v = s.setRes0 v := by
  rw [State.overlapResult, h]
  rfl

/-- What `EFE_INIT` does over disjoint regions. -/
theorem efeInit_outcome {s : State} (hc : checkEfInit s.cfg (efLayoutOfArgs s.args) = none)
    (hov : efOverlap (efLayoutOfArgs s.args) = false) : exec .efeInit s = .next ({ s with
      mem := zeroRegions s.mem (efLayoutOfArgs s.args)
      efe := efeInitContext s.args
      res := { r0 := u64 (efParamsOf (efLayoutOfArgs s.args)).l, r1 := u64 (efParamsOf (efLayoutOfArgs s.args)).uw
               r2 := u64 (efParamsOf (efLayoutOfArgs s.args)).lw
               r3 := u64 (efParamsOf (efLayoutOfArgs s.args)).iw } }).complete := by
  rw [exec, execEfeInit, hc, conclude_none, efeInitEffect, settleRegions_of_disjoint hov]
  rfl

/-- Settles O47: the checks pass, the effect over disjoint regions is the zeroed regions and the context. -/
theorem efeInitStartsEncoding : Obligations.EfeInitStartsEncoding := by
  intro s hm y p hu hi hn hr hov
  exact ⟨_, efeInit_outcome (checkEfInit_eq_none hu hi hn hr) hov, rfl,
    ⟨efLowBits_eq .., rfl, rfl, lt_two_pow_bitlen _, two_pow_bitlen_le _, rfl, rfl, rfl⟩,
    fun r hr x h1 h2 => readByte_zeroRegions_inside hm hr h1 h2, sameOutsideRanges_zeroRegions hm y⟩

/-! ## The three writes of `EFE_ENCODE` (R432) -/

/-- What the writes of an encoder rely on: the parameters of its context are those of its layout (R180), and its regions
share no byte. -/
structure EfeReady (c : EfEncoder) : Prop where
  l_eq : c.l.toNat = (efParamsOf (efeLayout c)).l
  e_eq : c.e.toNat = (efParamsOf (efeLayout c)).e
  nidx_eq : c.nidx.toNat = (efParamsOf (efeLayout c)).nidx
  i_pos : 0 < c.i.toNat
  next_le : c.next.toNat ≤ c.nidx.toNat
  e_pos : 0 < c.nidx.toNat → 0 < c.e.toNat
  disjoint : efOverlap (efeLayout c) = false

theorem efeReady_of_inv {p : Params} {c : EfEncoder} (h : c.state = .encoding) (hc : EfeInv p c)
    (hov : efOverlap (efeLayout c) = false) : EfeReady c := by
  obtain ⟨hy, ⟨hl, he, hnidx⟩, -, -, hnext⟩ := (efeInv_of_encoding h).1 hc
  have hi : 2 ≤ c.i.toNat := hy.bounds.2.1
  exact ⟨hl, he, hnidx, by omega, hnext, efe_e_pos h hc, hov⟩

theorem efOverlap_eq_false {y : EfLayout} (h : efOverlap y = false) :
    rangesMeet (y.ub, 8 * (efParamsOf y).uw) (y.lb, 8 * (efParamsOf y).lw) = false ∧
    rangesMeet (y.ub, 8 * (efParamsOf y).uw) (y.ib, 8 * (efParamsOf y).iw) = false ∧
    rangesMeet (y.lb, 8 * (efParamsOf y).lw) (y.ib, 8 * (efParamsOf y).iw) = false := by
  simpa only [efOverlap, Bool.or_eq_false_iff, and_assoc] using h

theorem EfeReady.regions {c : EfEncoder} (hr : EfeReady c) :
    rangesMeet (c.ub.toNat, 8 * (efParamsOf (efeLayout c)).uw) (c.lb.toNat, 8 * (efParamsOf (efeLayout c)).lw) = false ∧
    rangesMeet (c.ub.toNat, 8 * (efParamsOf (efeLayout c)).uw) (c.ib.toNat, 8 * (efParamsOf (efeLayout c)).iw) = false ∧
    rangesMeet (c.lb.toNat, 8 * (efParamsOf (efeLayout c)).lw) (c.ib.toNat, 8 * (efParamsOf (efeLayout c)).iw) =
      false := efOverlap_eq_false hr.disjoint

/-- The low bits of the value written at its index; a layout without low bits has none. -/
def putLow (c : EfEncoder) (x : Nat) (m : Memory) : Memory :=
  if 0 < c.l.toNat then putPacked m c.lb.toNat c.l.toNat c.numEnc.toNat (x % 2 ^ c.l.toNat) else m

theorem putLow_wf {c : EfEncoder} {x : Nat} {m : Memory} (hm : m.wf) : (putLow c x m).wf := by
  unfold putLow
  split
  · exact putPacked_wf hm ..
  · exact hm

theorem sameOutside_putLow {c : EfEncoder} (hn : c.numEnc.toNat < c.n.toNat) (x : Nat) (m : Memory) :
    sameOutside m (putLow c x m) c.lb.toNat (8 * ceilDiv (c.n.toNat * c.l.toNat) 64) := by
  unfold putLow
  split
  · next hl => exact sameOutside_putPacked m _ hl hn _
  · exact sameOutside_refl _ _ _

theorem streamBit_putLow {c : EfEncoder} {m : Memory} (hm : m.wf) (x q : Nat) :
    streamBit (putLow c x m) c.lb.toNat q =
      if c.numEnc.toNat * c.l.toNat ≤ q ∧ q < c.numEnc.toNat * c.l.toNat + c.l.toNat then
        x.testBit (c.l.toNat - 1 - (q - c.numEnc.toNat * c.l.toNat))
      else streamBit m c.lb.toNat q := by
  unfold putLow
  split
  · next hl =>
    rw [streamBit_putPacked hm _ hl, testBit_mod_of_lt (by omega)]
  · rw [if_neg (by omega)]

theorem encodeValue_eq (c : EfEncoder) (x : Nat) (m : Memory) : encodeValue c x m =
    putEntries c (some (x / 2 ^ c.l.toNat)) c.numEnc.toNat (c.nidx.toNat - c.next.toNat)
      (putLow c x (setUpperBit m c.ub.toNat (c.numEnc.toNat + x / 2 ^ c.l.toNat))) c.next.toNat := rfl

section EncodeValue

variable {c : EfEncoder} {x : Nat} {m : Memory}

theorem encodeValue_wf (hm : m.wf) : (encodeValue c x m).1.wf := by
  rw [encodeValue_eq]
  exact putEntries_wf (putLow_wf (setUpperBit_wf hm ..)) ..

variable (hr : EfeReady c)
include hr

theorem sameOutside_entries (bound : Option Nat) (cnt : Nat) (m : Memory) :
    sameOutside m (putEntries c bound cnt (c.nidx.toNat - c.next.toNat) m c.next.toNat).1 c.ib.toNat
      (8 * (efParamsOf (efeLayout c)).iw) := by
  have := sameOutside_putEntries (c := c) (k := c.nidx.toNat - c.next.toNat) (next := c.next.toNat) bound cnt m
    (fun h => hr.e_pos (by omega)) (by have := hr.next_le; omega)
  have hwords : (efParamsOf (efeLayout c)).iw = ceilDiv (c.nidx.toNat * c.e.toNat) 64 := by
    rw [hr.nidx_eq, hr.e_eq]
    rfl
  rwa [hwords]

theorem streamBit_entries (hm : m.wf) (bound : Option Nat) (cnt q : Nat) :
    streamBit (putEntries c bound cnt (c.nidx.toNat - c.next.toNat) m c.next.toNat).1 c.ib.toNat q =
      if c.next.toNat * (efParamsOf (efeLayout c)).e ≤ q ∧
        q < (putEntries c bound cnt (c.nidx.toNat - c.next.toNat) m c.next.toNat).2 * (efParamsOf (efeLayout c)).e then
        ((q / (efParamsOf (efeLayout c)).e + 1) * c.i.toNat + cnt).testBit
          ((efParamsOf (efeLayout c)).e - 1 - q % (efParamsOf (efeLayout c)).e)
      else streamBit m c.ib.toNat q := by
  rw [streamBit_putEntries hm bound cnt (fun h => hr.e_pos (by omega)), hr.e_eq]

/-- How many entries have been written once the value is encoded. -/
theorem encodeValue_next : (encodeValue c x m).2 = max c.next.toNat
    (min (efParamsOf (efeLayout c)).nidx (x / 2 ^ (efParamsOf (efeLayout c)).l / c.i.toNat)) := by
  rw [encodeValue_eq, putEntries_next_some hr.i_pos, Nat.add_sub_cancel' hr.next_le, hr.nidx_eq, hr.l_eq]

variable (hn : c.numEnc.toNat < c.n.toNat) (hx : x ≤ c.u.toNat)
include hn hx

/-- The bit of the value's high part lies in the upper region (R181). -/
theorem highBit_lt : c.numEnc.toNat + x / 2 ^ c.l.toNat < 64 * (efParamsOf (efeLayout c)).uw := by
  have hup := le_64_mul_ceilDiv ((efeLayout c).n + (efParamsOf (efeLayout c)).h)
  have hhigh : x / 2 ^ c.l.toNat ≤ (efParamsOf (efeLayout c)).h := by
    rw [hr.l_eq]
    exact Nat.div_le_div_right hx
  change _ < 64 * ceilDiv ((efeLayout c).n + (efParamsOf (efeLayout c)).h) 64
  change c.numEnc.toNat < (efeLayout c).n at hn
  omega

/-- The first two writes stay in their regions, as `sameOutside_entries` says of the third. -/
theorem encodeValue_frames :
    sameOutside m (setUpperBit m c.ub.toNat (c.numEnc.toNat + x / 2 ^ c.l.toNat)) c.ub.toNat
      (8 * (efParamsOf (efeLayout c)).uw) ∧
    (∀ m', sameOutside m' (putLow c x m') c.lb.toNat (8 * (efParamsOf (efeLayout c)).lw)) := by
  refine ⟨sameOutside_setUpperBit _ _ (highBit_lt hr hn hx), fun m' => ?_⟩
  have := sameOutside_putLow hn x m'
  rwa [hr.l_eq] at this

theorem encodeValue_outside : sameOutsideRanges m (encodeValue c x m).1 (efRegions (efeLayout c)) := by
  obtain ⟨hupper, hlower⟩ := encodeValue_frames (m := m) hr hn hx
  intro a ha
  rw [encodeValue_eq, sameOutside_entries hr _ _ _ a (ha _ (mem_efRegions.2 (.inr (.inr rfl)))),
    hlower _ a (ha _ (mem_efRegions.2 (.inr (.inl rfl)))), hupper a (ha _ (mem_efRegions.2 (.inl rfl)))]

theorem encodeValue_upper (hm : m.wf) {q : Nat} (hq : q < 64 * (efParamsOf (efeLayout c)).uw) :
    upperBit (encodeValue c x m).1 c.ub.toNat q =
      (upperBit m c.ub.toNat q || decide (q = c.numEnc.toNat + x / 2 ^ (efParamsOf (efeLayout c)).l)) := by
  obtain ⟨-, hlower⟩ := encodeValue_frames (m := m) hr hn hx
  obtain ⟨hul, hui, -⟩ := hr.regions
  rw [encodeValue_eq, upperBit_of_disjoint (sameOutside_entries hr _ _ _) (by rw [rangesMeet_comm]; exact hui) hq,
    upperBit_of_disjoint (hlower _) (by rw [rangesMeet_comm]; exact hul) hq, upperBit_setUpperBit hm, hr.l_eq]

theorem encodeValue_lower (hm : m.wf) {q : Nat} (hq : q < 64 * (efParamsOf (efeLayout c)).lw) :
    streamBit (encodeValue c x m).1 c.lb.toNat q =
      if c.numEnc.toNat * (efParamsOf (efeLayout c)).l ≤ q ∧
        q < c.numEnc.toNat * (efParamsOf (efeLayout c)).l + (efParamsOf (efeLayout c)).l then
        x.testBit ((efParamsOf (efeLayout c)).l - 1 - (q - c.numEnc.toNat * (efParamsOf (efeLayout c)).l))
      else streamBit m c.lb.toNat q := by
  obtain ⟨hupper, -⟩ := encodeValue_frames (m := m) hr hn hx
  obtain ⟨hul, -, hli⟩ := hr.regions
  rw [encodeValue_eq, streamBit_of_disjoint (sameOutside_entries hr _ _ _) (by rw [rangesMeet_comm]; exact hli) hq,
    streamBit_putLow (setUpperBit_wf hm ..), streamBit_of_disjoint hupper hul hq, hr.l_eq]

theorem encodeValue_index (hm : m.wf) {q : Nat} (hq : q < 64 * (efParamsOf (efeLayout c)).iw) :
    streamBit (encodeValue c x m).1 c.ib.toNat q =
      if c.next.toNat * (efParamsOf (efeLayout c)).e ≤ q ∧
        q < (encodeValue c x m).2 * (efParamsOf (efeLayout c)).e then
        ((q / (efParamsOf (efeLayout c)).e + 1) * c.i.toNat + c.numEnc.toNat).testBit
          ((efParamsOf (efeLayout c)).e - 1 - q % (efParamsOf (efeLayout c)).e)
      else streamBit m c.ib.toNat q := by
  obtain ⟨hupper, hlower⟩ := encodeValue_frames (m := m) hr hn hx
  obtain ⟨-, hui, hli⟩ := hr.regions
  rw [encodeValue_eq, streamBit_entries hr (putLow_wf (setUpperBit_wf hm ..)), streamBit_of_disjoint (hlower _) hli hq,
    streamBit_of_disjoint hupper hui hq]

end EncodeValue

/-! ## `EFE_ENCODE` and `EFE_FINISH` (R434, R435) -/

theorem efeEncode_outcome {s : State} (hc : efeEncodeCheck s = none) (hov : efOverlap (efeLayout s.efe) = false) :
    exec .efeEncode s = .next ({ s with
      mem := (encodeValue s.efe s.args.a0.toNat s.mem).1
      efe := { s.efe with
        last := s.args.a0, numEnc := s.efe.numEnc + 1, next := u64 (encodeValue s.efe s.args.a0.toNat s.mem).2 }
      res := { s.res with r0 := s.efe.numEnc + 1 } }).complete := by
  rw [exec, execEfeEncode, hc, conclude_none, efeEncodeEffect, settleRegions_of_disjoint hov,
    overlapResult_of_disjoint hov]
  rfl

theorem efeFinish_outcome {s : State} (hc : efeFinishCheck s = none) (hov : efOverlap (efeLayout s.efe) = false)
    (hnext : s.efe.next.toNat ≤ s.efe.nidx.toNat) : exec .efeFinish s = .next ({ s with
      mem := (putEntries s.efe none s.efe.n.toNat (s.efe.nidx.toNat - s.efe.next.toNat) s.mem s.efe.next.toNat).1
      efe := { s.efe with next := s.efe.nidx, state := .finished }
      res := { s.res with r0 := s.efe.numEnc } }).complete := by
  have hend : u64 (putEntries s.efe none s.efe.n.toNat (s.efe.nidx.toNat - s.efe.next.toNat) s.mem s.efe.next.toNat).2 =
      s.efe.nidx := by
    rw [putEntries_next_none, Nat.add_sub_cancel' hnext]
    exact BitVec.ofNat_toNat ..
  rw [exec, execEfeFinish, hc, conclude_none, efeFinishEffect, settleRegions_of_disjoint hov,
    overlapResult_of_disjoint hov, hend]
  rfl

/-- Settles O48: the outcome over disjoint regions, and each region's bits after the three writes. -/
theorem efeEncodeStoresValue : Obligations.EfeEncodeStoresValue := by
  intro s hs hinv hm hov hcount horder hx p c x i passed
  have hr := efeReady_of_inv hs hinv hov
  have hc := (efeEncodeCheck_eq_none s).2 ⟨⟨⟨hs, hcount⟩, horder⟩, hx⟩
  have hn : c.numEnc.toNat < c.n.toNat := numEnc_lt_of_check hinv hc
  have hnext : (encodeValue c x s.mem).2 = passed := encodeValue_next hr
  refine ⟨_, efeEncode_outcome hc hov, by rw [hnext]; rfl, encodeValue_outside hr hn hx,
    fun q hq => encodeValue_upper hr hn hx hm hq, fun q hq => encodeValue_lower hr hn hx hm hq, fun q hq => ?_⟩
  rw [← hnext]
  exact encodeValue_index hr hn hx hm hq

/-- Settles O49: the outcome over disjoint regions, and the index entries that are written without a bound. -/
theorem efeFinishCompletesIndex : Obligations.EfeFinishCompletesIndex := by
  intro s hs hinv hm hov hcount p c
  have hr := efeReady_of_inv hs hinv hov
  have hc := (efeFinishCheck_eq_none s).2 ⟨hs, hcount⟩
  refine ⟨_, efeFinish_outcome hc hov hr.next_le, rfl, sameOutside_entries hr _ _ _, fun q hq => ?_⟩
  have hend : (putEntries c none c.n.toNat (c.nidx.toNat - c.next.toNat) s.mem c.next.toNat).2 = p.nidx := by
    rw [putEntries_next_none, Nat.add_sub_cancel' hr.next_le, hr.nidx_eq]
  have hbit := streamBit_entries hr hm none c.n.toNat q
  rw [hend] at hbit
  exact hbit

end Sys2Proof.Machine
end

section
/-! PROOFS. Encoding a non-decreasing sequence leaves its encoding (46_ef_encoder R433 to R435, 47_ef_decoder R484): the
regions hold the part encoded so far after every command. -/

namespace Sys2Proof.Machine

/-! ## One command after the other -/

theorem runOne_of_exec {i : Instr} {s t : State} (h : exec i (s.accept (encode i)) = .next t)
    (ht : t.status.err = false) : runOne i s = some t := by
  rw [runOne, h]
  exact if_neg (by simp [ht])

/-! ## Index entries of a part of a sequence (30_encoding R183) -/

/-- A value at or above the entry's high part does not count. -/
theorem efEntry_append_of_le {l i k x : Nat} (xs : List Nat) (h : (k + 1) * i ≤ x / 2 ^ l) :
    efEntry l i (xs ++ [x]) k = efEntry l i xs k := by
  have : ¬ efHigh l x < (k + 1) * i := not_lt.2 h
  simp [efEntry, List.filter_append, this]

/-- Where every value is below the entry's high part, all count: so it is for the entry of a bit `q` that lies past the
entries the values pass. -/
theorem efEntry_of_le {l i e next q : Nat} {xs : List Nat} (hi : 0 < i) (he : 0 < e) (hq : next * e ≤ q)
    (h : ∀ x ∈ xs, x / 2 ^ l / i ≤ next) : efEntry l i xs (q / e) = (q / e + 1) * i + xs.length := by
  have hk := (Nat.le_div_iff_mul_le he).2 hq
  have hlt : ∀ x ∈ xs, efHigh l x < (q / e + 1) * i := fun x hx =>
    (Nat.div_lt_iff_lt_mul hi).1 (((h x hx).trans hk).trans_lt (Nat.lt_succ_self _))
  have hall : xs.filter (fun x => decide (efHigh l x < (q / e + 1) * i)) = xs :=
    List.filter_eq_self.2 fun x hx => decide_eq_true (hlt x hx)
  rw [efEntry, hall]

/-! ## What one `EFE_ENCODE` makes of the regions (R432) -/

theorem exists_lt_append {P : Nat → Nat → Prop} (xs : List Nat) (x : Nat) :
    (∃ i, i < (xs ++ [x]).length ∧ P i ((xs ++ [x]).getD i 0)) ↔
      (∃ i, i < xs.length ∧ P i (xs.getD i 0)) ∨ P xs.length x := by
  have hlast : (xs ++ [x]).getD xs.length 0 = x := by simp
  constructor
  · rintro ⟨i, hi, hp⟩
    rw [List.length_append, List.length_singleton] at hi
    obtain rfl | hlt := Nat.eq_or_lt_of_le (Nat.le_of_lt_succ hi)
    · exact .inr (hlast ▸ hp)
    · exact .inl ⟨i, hlt, by rwa [List.getD_append _ _ _ _ hlt] at hp⟩
  · rintro (⟨i, hi, hp⟩ | hp)
    · exact ⟨i, by simp; omega, by rwa [List.getD_append _ _ _ _ hi]⟩
    · exact ⟨xs.length, by simp, hlast.symm ▸ hp⟩

/-- The bits of the low parts when a value is added to the sequence. -/
theorem lowBit_append (xs : List Nat) (x l q : Nat) :
    (decide (q < (xs ++ [x]).length * l) && ((xs ++ [x]).getD (q / l) 0).testBit (l - 1 - q % l)) =
      if xs.length * l ≤ q ∧ q < xs.length * l + l then x.testBit (l - 1 - (q - xs.length * l))
      else (decide (q < xs.length * l) && (xs.getD (q / l) 0).testBit (l - 1 - q % l)) := by
  rw [List.length_append, List.length_singleton, Nat.succ_mul]
  by_cases hin : xs.length * l ≤ q ∧ q < xs.length * l + l
  · obtain ⟨r, rfl⟩ := Nat.exists_eq_add_of_le hin.1
    obtain ⟨hdiv, hmod⟩ := mul_add_div_mod (w := l) (r := r) xs.length (by omega)
    rw [if_pos hin, decide_eq_true hin.2, Bool.true_and, hdiv, hmod, Nat.add_sub_cancel_left,
      List.getD_append_right _ _ _ _ le_rfl, Nat.sub_self, List.getD_cons_zero]
  · rw [if_neg hin]
    by_cases hlt : q < xs.length * l
    · have hl0 : 0 < l := Nat.pos_of_ne_zero fun h0 => by simp [h0] at hlt
      rw [decide_eq_true hlt, decide_eq_true (by omega), List.getD_append _ _ _ _ ((Nat.div_lt_iff_lt_mul hl0).2 hlt)]
    · rw [decide_eq_false hlt, decide_eq_false (by omega), Bool.false_and, Bool.false_and]

/-- The bits of the index entries when those from `next` on are added: where all values lie below them, an added entry
counts every value. -/
theorem entryBit_extend {l i e next entries : Nat} {xs : List Nat} (hi : 0 < i) (hle : next ≤ entries)
    (h : ∀ x ∈ xs, x / 2 ^ l / i ≤ next) (q k : Nat) :
    (decide (q < entries * e) && (efEntry l i xs (q / e)).testBit k) =
      if next * e ≤ q ∧ q < entries * e then ((q / e + 1) * i + xs.length).testBit k
      else (decide (q < next * e) && (efEntry l i xs (q / e)).testBit k) := by
  have hmul := Nat.mul_le_mul_right e hle
  by_cases hin : next * e ≤ q ∧ q < entries * e
  · have he : 0 < e := Nat.pos_of_ne_zero fun h0 => by simp [h0] at hin
    rw [if_pos hin, decide_eq_true hin.2, Bool.true_and, efEntry_of_le hi he hin.1 h]
  · rw [if_neg hin]
    congr 2
    rw [eq_iff_iff]
    omega

/-- A value at or above the written entries leaves their bits. -/
theorem entryBit_append {l i e entries x : Nat} (xs : List Nat) (hi : 0 < i) (h : entries ≤ x / 2 ^ l / i) (q k : Nat) :
    (decide (q < entries * e) && (efEntry l i (xs ++ [x]) (q / e)).testBit k) =
      (decide (q < entries * e) && (efEntry l i xs (q / e)).testBit k) := by
  by_cases hq : q < entries * e
  · have he : 0 < e := Nat.pos_of_ne_zero fun h0 => by simp [h0] at hq
    have hk := (Nat.div_lt_iff_lt_mul he).2 hq
    rw [efEntry_append_of_le xs ((Nat.le_div_iff_mul_le hi).1 (by omega))]
  · rw [decide_eq_false hq, Bool.false_and, Bool.false_and]

section Step

variable {c : EfEncoder} {m : Memory} {xs : List Nat} {x : Nat}

theorem encodedBits_encodeValue (hr : EfeReady c) (hm : m.wf) (hn : c.numEnc.toNat < c.n.toNat) (hx : x ≤ c.u.toNat)
    (hcount : c.numEnc.toNat = xs.length)
    (hbelow : ∀ d ∈ xs, d / 2 ^ (efParamsOf (efeLayout c)).l / c.i.toNat ≤ c.next.toNat)
    (hpassed : (encodeValue c x m).2 ≤ x / 2 ^ (efParamsOf (efeLayout c)).l / c.i.toNat)
    (h : EncodedBits m (efeLayout c) xs c.next.toNat) :
    EncodedBits (encodeValue c x m).1 (efeLayout c) (xs ++ [x]) (encodeValue c x m).2 := by
  refine ⟨fun q hq => ?_, fun q hq => ?_, fun q hq => ?_⟩
  · refine (Bool.eq_iff_iff.1 (encodeValue_upper hr hn hx hm hq)).trans ?_
    rw [Bool.or_eq_true, decide_eq_true_iff,
      exists_lt_append (P := fun i v => q = i + v / 2 ^ (efParamsOf (efeLayout c)).l), hcount]
    exact or_congr_left (h.upper q hq)
  · rw [lowBit_append, ← h.lower q hq, ← hcount]
    exact encodeValue_lower hr hn hx hm hq
  · have hnext : c.next.toNat ≤ (encodeValue c x m).2 := le_putEntries_next ..
    rw [entryBit_append (i := (efeLayout c).i) xs hr.i_pos hpassed,
      entryBit_extend (i := (efeLayout c).i) hr.i_pos hnext hbelow, ← h.index q hq, ← hcount]
    exact encodeValue_index hr hn hx hm hq

/-- The entries written at the end count every value. -/
theorem encodedBits_putEntries (hr : EfeReady c) (hm : m.wf) (hcount : c.n.toNat = xs.length)
    (hbelow : ∀ d ∈ xs, d / 2 ^ (efParamsOf (efeLayout c)).l / c.i.toNat ≤ c.next.toNat)
    (h : EncodedBits m (efeLayout c) xs c.next.toNat) :
    EncodedBits (putEntries c none c.n.toNat (c.nidx.toNat - c.next.toNat) m c.next.toNat).1 (efeLayout c) xs
      (efParamsOf (efeLayout c)).nidx := by
  have hframe := sameOutside_entries hr none c.n.toNat m
  obtain ⟨-, hui, hli⟩ := hr.regions
  refine ⟨fun q hq => ?_, fun q hq => ?_, fun q hq => ?_⟩
  · rw [← h.upper q hq]
    exact Bool.eq_iff_iff.1 (upperBit_of_disjoint hframe (by rw [rangesMeet_comm]; exact hui) hq)
  · rw [← h.lower q hq]
    exact streamBit_of_disjoint hframe (by rw [rangesMeet_comm]; exact hli) hq
  · have hend : (putEntries c none c.n.toNat (c.nidx.toNat - c.next.toNat) m c.next.toNat).2 =
        (efParamsOf (efeLayout c)).nidx := by
      rw [putEntries_next_none, Nat.add_sub_cancel' hr.next_le, hr.nidx_eq]
    have hbit := streamBit_entries hr hm none c.n.toNat q
    rw [hend] at hbit
    rw [entryBit_extend (i := (efeLayout c).i) hr.i_pos (hr.nidx_eq ▸ hr.next_le) hbelow, ← h.index q hq, ← hcount]
    exact hbit

end Step

/-! ## The encoder on its way (R434) -/

/-- The encoder over the layout `y` has encoded the values `xs`: what its context and its regions hold then. -/
structure Encoding (p : Params) (y : EfLayout) (xs : List Nat) (c : EfEncoder) (m : Memory) : Prop where
  state : c.state = .encoding
  inv : EfeInv p c
  wf : m.wf
  layout : efeLayout c = y
  count : c.numEnc.toNat = xs.length
  last_zero_or_mem : c.last.toNat = 0 ∨ c.last.toNat ∈ xs
  le_last : ∀ d ∈ xs, d ≤ c.last.toNat
  next : c.next.toNat = c.last.toNat / 2 ^ (efParamsOf y).l / y.i
  bits : EncodedBits m y xs c.next.toNat

/-- A byte of a region reads 0 right after `EFE_INIT`, so its bits are 0. -/
theorem streamBit_zeroRegions {m : Memory} (hm : m.wf) {y : EfLayout} {base words q : Nat}
    (hr : (base, 8 * words) ∈ efRegions y) (hq : q < 64 * words) : streamBit (zeroRegions m y) base q = false := by
  rw [streamBit, readByte_zeroRegions_inside hm hr (by dsimp only; omega) (by dsimp only; omega)]
  exact BitVec.getLsbD_zero

theorem encodedBits_zeroRegions {m : Memory} (hm : m.wf) (y : EfLayout) : EncodedBits (zeroRegions m y) y [] 0 := by
  refine ⟨fun q hq => ?_, fun q hq => ?_, fun q hq => ?_⟩
  · rw [upperBit_eq_streamBit, streamBit_zeroRegions hm (mem_efRegions.2 (.inl rfl)) (upperPlace_lt hq)]
    simp
  · rw [streamBit_zeroRegions hm (mem_efRegions.2 (.inr (.inl rfl))) hq]
    simp
  · rw [streamBit_zeroRegions hm (mem_efRegions.2 (.inr (.inr rfl))) hq]
    simp

/-- `EFE_INIT` starts an encoding of no values yet. -/
theorem runOne_efeInit {s : State} (hm : s.mem.wf) (hp : s.cfg.legal)
    (hc : checkEfInit s.cfg (efLayoutOfArgs s.args) = none) (hov : efOverlap (efLayoutOfArgs s.args) = false) :
    ∃ a, runOne .efeInit s = some a ∧ a.cfg = s.cfg ∧ Encoding a.cfg (efLayoutOfArgs s.args) [] a.efe a.mem := by
  refine ⟨_, runOne_of_exec (efeInit_outcome hc hov) rfl, rfl, ?_⟩
  exact
    { state := rfl
      inv := efeInv_efeInitContext hp hc
      wf := zeroBytes_wf _ _ _ (zeroBytes_wf _ _ _ (zeroBytes_wf _ _ _ hm))
      layout := rfl
      count := rfl
      last_zero_or_mem := .inl rfl
      le_last := nofun
      next := by simp [efeInitContext]
      bits := encodedBits_zeroRegions hm _ }

/-- Each value the encoder accepts extends the encoding. -/
theorem exec_efeEncode_extends {s : State} {y : EfLayout} {xs : List Nat} (hp : s.cfg.legal)
    (h : Encoding s.cfg y xs s.efe s.mem) (hov : efOverlap y = false) (hx : s.args.a0.toNat ≤ y.u)
    (hn : xs.length < y.n) (hxs : ∀ d ∈ xs, d ≤ s.args.a0.toNat) :
    ∃ t, exec .efeEncode s = .next t ∧ t.status.err = s.status.err ∧ t.cfg = s.cfg ∧
      Encoding s.cfg y (xs ++ [s.args.a0.toNat]) t.efe t.mem := by
  obtain ⟨hs, hinv, hm, rfl, hcount, hlast, hle, hnext, hbits⟩ := h
  have hr := efeReady_of_inv hs hinv hov
  have hn' : s.efe.numEnc.toNat < s.efe.n.toNat := hcount ▸ hn
  have hlastx : s.efe.last.toNat ≤ s.args.a0.toNat := hlast.elim (fun h0 => h0 ▸ Nat.zero_le _) (hxs _)
  have hc : efeEncodeCheck s = none :=
    (efeEncodeCheck_eq_none s).2 ⟨⟨⟨hs, fun h0 => by rw [h0] at hn'; omega⟩, .inr hlastx⟩, hx⟩
  have hrise {a b : Nat} (hab : a ≤ b) : a / 2 ^ (efParamsOf (efeLayout s.efe)).l / s.efe.i.toNat ≤
      b / 2 ^ (efParamsOf (efeLayout s.efe)).l / s.efe.i.toNat := Nat.div_le_div_right (Nat.div_le_div_right hab)
  have hpassed : (encodeValue s.efe s.args.a0.toNat s.mem).2 =
      s.args.a0.toNat / 2 ^ (efParamsOf (efeLayout s.efe)).l / s.efe.i.toNat := by
    have htop : s.args.a0.toNat / 2 ^ (efParamsOf (efeLayout s.efe)).l / s.efe.i.toNat ≤
      (efParamsOf (efeLayout s.efe)).nidx := hrise hx
    rw [encodeValue_next hr, Nat.min_eq_right htop, hnext]
    exact Nat.max_eq_right (hrise hlastx)
  have hword : (u64 (encodeValue s.efe s.args.a0.toNat s.mem).2).toNat =
      (encodeValue s.efe s.args.a0.toNat s.mem).2 := by
    rw [BitVec.toNat_ofNat]
    exact Nat.mod_eq_of_lt ((encodeValue_next_le hr.next_le _ _).trans_lt s.efe.nidx.isLt)
  have hx' := efeEncode_outcome hc hov
  refine ⟨_, hx', rfl, rfl, ?_⟩
  exact
    { state := hs
      inv := exec_keeps_efeInv hp hinv hx'
      wf := encodeValue_wf hm
      layout := rfl
      count := by
        rw [List.length_append, ← hcount]
        exact toNat_add_one_of_lt hn' s.efe.n.isLt
      last_zero_or_mem := .inr (List.mem_append_right _ (List.mem_singleton_self _))
      le_last := fun d hd => (List.mem_append.1 hd).elim (hxs d) fun hd => (List.mem_singleton.1 hd).le
      next := hword.trans hpassed
      bits := by
        have := encodedBits_encodeValue hr hm hn' hx hcount (fun d hd => hnext ▸ hrise (hle d hd)) hpassed.le hbits
        rwa [← hword] at this }

theorem runOne_efeEncode {s : State} {y : EfLayout} {xs : List Nat} {x : Word} (hp : s.cfg.legal)
    (h : Encoding s.cfg y xs s.efe s.mem) (hov : efOverlap y = false) (hx : x.toNat ≤ y.u) (hn : xs.length < y.n)
    (hxs : ∀ d ∈ xs, d ≤ x.toNat) : ∃ a, runOne .efeEncode { s with args := { s.args with a0 := x } } = some a ∧
      a.cfg = s.cfg ∧ Encoding s.cfg y (xs ++ [x.toNat]) a.efe a.mem := by
  obtain ⟨t, hexec, herr, hcfg, henc⟩ := exec_efeEncode_extends
    (s := ({ s with args := { s.args with a0 := x } } : State).accept (encode .efeEncode)) hp h hov hx hn hxs
  exact ⟨t, runOne_of_exec hexec herr, hcfg, henc⟩

/-- Encoding the values in a row. -/
theorem encodeAll_extends {y : EfLayout} (hov : efOverlap y = false) (xs : List Word) {s : State} {done : List Nat}
    (hp : s.cfg.legal) (h : Encoding s.cfg y done s.efe s.mem) (hfits : SequenceFits y (done ++ xs.map BitVec.toNat)) :
    ∃ b, encodeAll xs s = some b ∧ b.cfg = s.cfg ∧ Encoding s.cfg y (done ++ xs.map BitVec.toNat) b.efe b.mem := by
  induction xs generalizing s done with
  | nil => exact ⟨s, rfl, rfl, by rwa [List.map_nil, List.append_nil]⟩
  | cons x xs ih =>
    rw [List.map_cons, List.append_cons] at hfits ⊢
    obtain ⟨hlen, hpair, hle⟩ := hfits
    have hbelow : ∀ d ∈ done, d ≤ x.toNat := fun d hd =>
      (List.pairwise_append.1 (List.pairwise_append.1 hpair).1).2.2 d hd _ (List.mem_singleton_self _)
    obtain ⟨a, ha, hcfg, henc⟩ := runOne_efeEncode (x := x) hp h hov (hle _ (by simp))
      (by rw [← hlen]; simp) hbelow
    obtain ⟨b, hb, hcfg', henc'⟩ := ih (hcfg ▸ hp) (hcfg.symm ▸ henc) ⟨hlen, hpair, hle⟩
    exact ⟨b, by rw [encodeAll, ha]; exact hb, hcfg'.trans hcfg, hcfg ▸ henc'⟩

/-- `EFE_FINISH` after the last value leaves the encoding of the sequence (R435). -/
theorem runOne_efeFinish {s : State} {y : EfLayout} {xs : List Nat} (h : Encoding s.cfg y xs s.efe s.mem)
    (hov : efOverlap y = false) (hn : xs.length = y.n) :
    ∃ t, runOne .efeFinish s = some t ∧ EncodedBits t.mem y xs (efParamsOf y).nidx := by
  obtain ⟨hs, hinv, hm, rfl, hcount, -, hle, hnext, hbits⟩ := h
  have hr := efeReady_of_inv hs hinv hov
  have hall : s.efe.numEnc = s.efe.n := BitVec.eq_of_toNat_eq (hcount.trans hn)
  have hc : efeFinishCheck (s.accept (encode .efeFinish)) = none := (efeFinishCheck_eq_none _).2 ⟨hs, hall⟩
  refine ⟨_, runOne_of_exec (efeFinish_outcome hc hov hr.next_le) rfl, encodedBits_putEntries hr hm hn.symm ?_ hbits⟩
  exact fun d hd => hnext ▸ Nat.div_le_div_right (Nat.div_le_div_right (hle d hd))

/-- Settles O51: the encoder's part of the sequence grows value by value, and the finished regions hold all of it. -/
theorem encodedSequenceDecodes : Obligations.EncodedSequenceDecodes := by
  intro s xs hm hp y hu hi hn hr hov hlen hpair hle
  have hfits : SequenceFits y (xs.map BitVec.toNat) :=
    ⟨by rw [List.length_map, hlen], List.pairwise_map.2 hpair, fun v hv => by
      obtain ⟨x, hx, rfl⟩ := List.mem_map.1 hv
      exact hle x hx⟩
  obtain ⟨a, ha, hcfg, hstart⟩ := runOne_efeInit hm hp (checkEfInit_eq_none hu hi hn hr) hov
  obtain ⟨b, hb, hcfg', henc⟩ := encodeAll_extends hov xs (hcfg ▸ hp) hstart hfits
  obtain ⟨c, hc, hbits⟩ := runOne_efeFinish (hcfg'.symm ▸ henc) hov hfits.1
  exact ⟨a, b, c, ha, hb, hc, efSequence_eq_some_iff.2 ⟨hov, hfits, hbits⟩⟩

end Sys2Proof.Machine
end

section
/-! PROOFS. The bytes of a delta block (30_encoding R170 to R177, 42_delta_encoder R268, R269), and that the stream
reader takes exactly them and gives the values back (43_delta_decoder R302, R303). -/

namespace Sys2Proof.Machine

/-! ## Bytes of a number (20_memory R102) -/

theorem bytesOnto_eq (acc : List Byte) (n v : Nat) : bytesOnto acc n v = bytesOf n v ++ acc := by
  induction n generalizing acc v with
  | zero => rfl
  | succ n ih => rw [bytesOf, bytesOnto, bytesOnto, ih, ih [_], List.append_assoc, List.singleton_append]

theorem bytesOf_succ (n v : Nat) : bytesOf (n + 1) v = bytesOf n (v / 256) ++ [BitVec.ofNat 8 v] := by
  rw [bytesOf, bytesOnto, bytesOnto_eq]

@[simp] theorem length_bytesOf (n v : Nat) : (bytesOf n v).length = n := by
  induction n generalizing v with
  | zero => rfl
  | succ n ih => rw [bytesOf_succ, List.length_append, ih, List.length_singleton]

theorem getD_bytesOf {n k : Nat} (v : Nat) (h : k < n) :
    (bytesOf n v).getD k 0 = BitVec.ofNat 8 (v / 256 ^ (n - 1 - k)) := by
  induction n generalizing v with
  | zero => omega
  | succ n ih =>
    rw [bytesOf_succ]
    obtain rfl | hlt := Nat.eq_or_lt_of_le (Nat.le_of_lt_succ h)
    · rw [List.getD_append_right _ _ _ _ (by simp), length_bytesOf, Nat.sub_self, List.getD_cons_zero]
      simp
    · rw [List.getD_append _ _ _ _ (by simpa), ih _ hlt, Nat.div_div_eq_div_mul, ← Nat.pow_succ']
      congr 3
      omega

/-- Bit `q` of the bytes of a number, the most significant bit of each first. -/
theorem getLsbD_bytesOf {n q : Nat} (v : Nat) (h : q < 8 * n) :
    ((bytesOf n v).getD (q / 8) 0).getLsbD (7 - q % 8) = v.testBit (8 * n - 1 - q) := by
  rw [getD_bytesOf v (by omega), BitVec.getLsbD_ofNat, show 256 = 2 ^ 8 from rfl, ← Nat.pow_mul,
    Nat.testBit_div_two_pow, decide_eq_true (by omega), Bool.true_and]
  congr 1
  omega

theorem bytesOf_four (x : BitVec 32) : bytesOf 4 x.toNat =
    [x.extractLsb' 24 8, x.extractLsb' 16 8, x.extractLsb' 8 8, x.extractLsb' 0 8] := by
  simp only [bytesOf, bytesOnto, BitVec.extractLsb', Nat.shiftRight_eq_div_pow, Nat.div_div_eq_div_mul]
  norm_num

theorem bytesAt_append (m : Memory) (a : Nat) (xs ys : List Byte) :
    bytesAt m a (xs ++ ys) ↔ bytesAt m a xs ∧ bytesAt m (a + xs.length) ys := by
  induction xs generalizing a with
  | nil => simp [bytesAt]
  | cons x xs ih =>
    rw [List.cons_append, bytesAt_cons, bytesAt_cons, ih, and_assoc, List.length_cons,
      show a + 1 + xs.length = a + (xs.length + 1) by omega]

/-- The number that bytes in the memory make up. -/
theorem memRead_of_bytesAt {m : Memory} {a n v : Nat} (h : bytesAt m a (bytesOf n v)) (hv : v < 2 ^ (8 * n)) :
    memRead m a n = v := by
  refine (memRead_eq_iff hv).2 fun q hq => ?_
  rw [streamBit, h _ (by rw [length_bytesOf]; omega), getLsbD_bytesOf v hq]

/-! ## The reader's elementary steps (20_memory R112) -/

section Reader

variable {m : Memory} {fin p : Nat}

theorem streamByte_of_lt (h : p < fin) : streamByte m fin p = .ok ((readByte m p).toNat, p + 1) := if_neg (by omega)

theorem memRead_succ_front (m : Memory) (a n : Nat) :
    memRead m a (n + 1) = (readByte m a).toNat * 256 ^ n + memRead m (a + 1) n := by
  induction n with
  | zero => simp [memRead]
  | succ n ih =>
    rw [memRead, ih, memRead, show a + 1 + n = a + (n + 1) by omega]
    ring

theorem streamBytes_of_le {n : Nat} (acc : Nat) (h : p + n ≤ fin) :
    streamBytes m fin n acc p = .ok (acc * 256 ^ n + memRead m p n, p + n) := by
  induction n generalizing acc p with
  | zero => simp [streamBytes, memRead]
  | succ n ih =>
    rw [streamBytes, streamByte_of_lt (by omega)]
    dsimp only
    rw [ih _ (by omega), memRead_succ_front]
    congr 2
    · ring
    · omega

theorem streamBytes_bytesOf {n v : Nat} (hm : bytesAt m p (bytesOf n v)) (hv : v < 2 ^ (8 * n)) (h : p + n ≤ fin) :
    streamBytes m fin n 0 p = .ok (v, p + n) := by
  rw [streamBytes_of_le 0 h, memRead_of_bytesAt hm hv, Nat.zero_mul, Nat.zero_add]

theorem streamSkip_of_le {n : Nat} (h : p + n ≤ fin) : streamSkip fin n p = .ok (p + n) := if_neg (by omega)

end Reader

/-! ## Residues and their packing (30_encoding R157, R177) -/

theorem foldl_max_spec (xs : List Nat) (b : Nat) :
    b ≤ xs.foldl max b ∧ (∀ x ∈ xs, x ≤ xs.foldl max b) ∧ (xs.foldl max b = b ∨ xs.foldl max b ∈ xs) := by
  induction xs generalizing b with
  | nil => simp
  | cons x xs ih =>
    obtain ⟨hb, hle, heq⟩ := ih (max b x)
    refine ⟨(Nat.le_max_left ..).trans hb, List.forall_mem_cons.2 ⟨(Nat.le_max_right ..).trans hb, hle⟩, ?_⟩
    rw [List.foldl_cons, List.mem_cons]
    rcases heq with heq | heq
    · rw [heq]
      omega
    · exact .inr (.inr heq)

theorem residueWidth_leastWidth (res : List Word) : leastWidth res (residueWidth res) := by
  obtain ⟨-, hle, hmax⟩ := foldl_max_spec (res.map BitVec.toNat) 0
  unfold residueWidth
  generalize (res.map BitVec.toNat).foldl max 0 = top at *
  refine ⟨fun r hr => (hle _ (List.mem_map_of_mem hr)).trans_lt (lt_two_pow_bitlen top), ?_⟩
  rcases hmax with rfl | hmem
  · exact .inl rfl
  · obtain ⟨r, hr, rfl⟩ := List.mem_map.1 hmem
    exact (two_pow_bitlen_le r.toNat).imp_right fun h => ⟨r, hr, h⟩

theorem le_eight_mul_ceilDiv (n : Nat) : n ≤ 8 * ceilDiv n 8 := by
  unfold ceilDiv
  omega

@[simp] theorem length_packBytes (w : Nat) (vs : List Nat) : (packBytes w vs).length = ceilDiv (vs.length * w) 8 := by
  simp [packBytes]

/-- Bit `q` of packed fields: a bit of field `q / w`, and 0 past the last one. -/
theorem getLsbD_packBytes (w : Nat) (vs : List Nat) {q : Nat} (hq : q < 8 * (packBytes w vs).length) :
    ((packBytes w vs).getD (q / 8) 0).getLsbD (7 - q % 8) =
      (decide (q < vs.length * w) && (vs.getD (q / w) 0).testBit (w - 1 - q % w)) := by
  rw [length_packBytes] at hq
  rw [packBytes, getLsbD_bytesOf _ hq, testBit_paddedFields vs (le_eight_mul_ceilDiv _) hq]

/-- Unpacking packed residues that fit their width gives them back. -/
theorem unpackBytes_packed {w : Nat} (res : List Word) (h : ∀ r ∈ res, r.toNat < 2 ^ w) :
    (unpackBytes w res.length (ceilDiv (res.length * w) 8) (joinFields w (res.map BitVec.toNat) *
      2 ^ (8 * ceilDiv (res.length * w) 8 - res.length * w))).map u64 = res := by
  have hsplit := splitFields_paddedFields (w := w) (res.map BitVec.toNat)
    (le_eight_mul_ceilDiv ((res.map BitVec.toNat).length * w))
  rw [List.length_map] at hsplit
  rw [unpackBytes, hsplit, List.map_map, List.map_map]
  refine (List.map_congr_left (g := id) fun r hr => ?_).trans (List.map_id _)
  exact BitVec.eq_of_toNat_eq (by simp [Nat.mod_eq_of_lt (h r hr)])

/-! ## A block's parts (30_encoding R171 to R173) -/

/-- The baseline of a block (42_delta_encoder R268, R269). -/
def blockBase (mono : Bool) (vs : List Word) : Word := if mono then vs.headD 0 else signedMin (vs.headD 0) vs

/-- The average a monotonic block carries (42_delta_encoder R269). -/
def blockAvg (vs : List Word) : F32 := monoAvg (vs.headD 0) (vs.getLastD 0) vs.length

/-- The residues of a block (42_delta_encoder R268, R269). -/
def blockResidues (mono : Bool) (vs : List Word) : List Word :=
  if mono then monoResidues (blockBase mono vs) (blockAvg vs) 0 vs else plainResidues (blockBase mono vs) vs

/-- The bytes between the baseline and the residues: the average of a monotonic block (30_encoding R173). -/
def averageBytes (mono : Bool) (vs : List Word) : List Byte := if mono then bytesOf 4 (blockAvg vs).toNat else []

theorem encodeBlock_eq (mono : Bool) (vs : List Word) : encodeBlock mono vs =
    tokenByte (residueWidth (blockResidues mono vs)) (blockBase mono vs) ::
      (baselineBytes (blockBase mono vs) ++ averageBytes mono vs ++
        packBytes (residueWidth (blockResidues mono vs)) ((blockResidues mono vs).map BitVec.toNat)) := by
  cases mono with
  | false => simp [encodeBlock, encodePlain, blockResidues, blockBase, averageBytes]
  | true => simp [encodeBlock, encodeMono, blockResidues, blockBase, averageBytes, blockAvg]

theorem signedMin_spec (b : Word) (vs : List Word) : (signedMin b vs = b ∨ signedMin b vs ∈ vs) ∧
    (signedMin b vs).toInt ≤ b.toInt ∧ ∀ v ∈ vs, (signedMin b vs).toInt ≤ v.toInt := by
  induction vs generalizing b with
  | nil => simp [signedMin]
  | cons v vs ih =>
    rw [signedMin, List.mem_cons, List.forall_mem_cons]
    by_cases hv : v.toInt < b.toInt
    · obtain ⟨hmem, hle, hall⟩ := ih v
      rw [if_pos hv]
      exact ⟨.inr hmem, hle.trans hv.le, hle, hall⟩
    · obtain ⟨hmem, hle, hall⟩ := ih b
      rw [if_neg hv]
      exact ⟨hmem.imp_right .inr, hle, hle.trans (not_lt.1 hv), hall⟩

theorem blockBase_isBaseline (mono : Bool) {vs : List Word} (h : vs ≠ []) : isBaseline mono vs (blockBase mono vs) := by
  cases mono with
  | true => rfl
  | false =>
    obtain ⟨hmem, -, hall⟩ := signedMin_spec (vs.headD 0) vs
    obtain ⟨v, vs, rfl⟩ := List.exists_cons_of_ne_nil h
    refine ⟨hmem.elim (fun he => ?_) id, hall⟩
    show signedMin _ _ ∈ _
    rw [he]
    exact List.mem_cons_self

theorem getD_monoResidues (base : Word) (avg : F32) (i : Nat) {vs : List Word} {k : Nat} (h : k < vs.length) :
    (monoResidues base avg i vs).getD k 0 = zz (vs.getD k 0 - base - pred avg (i + k)) := by
  induction vs generalizing i k with
  | nil => simp at h
  | cons v vs ih =>
    cases k with
    | zero => rfl
    | succ k =>
      rw [monoResidues, List.getD_cons_succ, List.getD_cons_succ, ih (i + 1) (by simpa using h),
        show i + 1 + k = i + (k + 1) by omega]

@[simp] theorem length_blockResidues (mono : Bool) (vs : List Word) : (blockResidues mono vs).length = vs.length := by
  cases mono with
  | false => simp [blockResidues, plainResidues]
  | true => simp [blockResidues, length_monoResidues]

theorem getD_blockResidues (mono : Bool) {vs : List Word} {k : Nat} (h : k < vs.length) :
    (blockResidues mono vs).getD k 0 =
      zz (vs.getD k 0 - blockBase mono vs - if mono then pred (blockAvg vs) k else 0) := by
  cases mono with
  | false => simp [blockResidues, plainResidues, List.getD_eq_getElem?_getD, h]
  | true => rw [blockResidues, if_pos rfl, getD_monoResidues _ _ _ h, Nat.zero_add, if_pos rfl]

/-- The residues give the values back (30_encoding R172, R173). -/
theorem reconstruct_plainResidues (base : Word) (avg : F32) (i : Nat) (vs : List Word) :
    reconstruct false base avg i (plainResidues base vs) = vs := by
  induction vs generalizing i with
  | nil => rfl
  | cons v vs ih =>
    rw [plainResidues, List.map_cons, reconstruct, unzz_zz, if_neg Bool.false_ne_true, BitVec.add_comm,
      BitVec.sub_add_cancel]
    exact congrArg _ (ih _)

theorem reconstruct_monoResidues (base : Word) (avg : F32) (i : Nat) (vs : List Word) :
    reconstruct true base avg i (monoResidues base avg i vs) = vs := by
  induction vs generalizing i with
  | nil => rfl
  | cons v vs ih =>
    rw [monoResidues, reconstruct, unzz_zz, if_pos rfl, ih, BitVec.add_comm, BitVec.add_comm base, ← BitVec.add_assoc,
      BitVec.sub_add_cancel, BitVec.sub_add_cancel]

/-! ## Reading a block (43_delta_decoder R302, R303) -/

section ReadBlock

variable {m : Memory} {fin p bits : Nat} {base : Word}

theorem tokenByte_toNat (hb : bits ≤ 64) : (tokenByte bits base).toNat = 2 * bits + if base = 0 then 1 else 0 := by
  rw [tokenByte, BitVec.toNat_ofNat, Nat.mod_eq_of_lt (by split <;> omega)]

theorem streamToken_tokenByte (hb : bits ≤ 64) (hm : readByte m p = tokenByte bits base) (h : p < fin) :
    streamToken m fin p = .ok (bits, if base = 0 then 1 else 0, p + 1) := by
  rw [streamToken, streamByte_of_lt h, hm, tokenByte_toNat hb]
  dsimp only
  rw [show (2 * bits + if base = 0 then 1 else 0) / 2 = bits by split <;> omega,
    show (2 * bits + if base = 0 then 1 else 0) % 2 = if base = 0 then 1 else 0 by split <;> omega, if_neg (by omega)]

theorem streamBaseline_baselineBytes (hm : bytesAt m p (baselineBytes base))
    (h : p + (baselineBytes base).length ≤ fin) :
    streamBaseline m fin (if base = 0 then 1 else 0) p = .ok (base, p + (baselineBytes base).length) := by
  unfold streamBaseline baselineBytes at *
  by_cases h0 : base = 0
  · simp [h0]
  · simp only [if_neg h0] at *
    rw [if_neg (by decide), streamBvl_bvl m _ p fin hm h]
    dsimp only
    rw [unzz_zz]

/-- A block of values lies in the stream at `p`, part by part. -/
structure BlockAt (m : Memory) (fin p : Nat) (mono : Bool) (vs : List Word) : Prop where
  token : readByte m p = tokenByte (residueWidth (blockResidues mono vs)) (blockBase mono vs)
  baseline : bytesAt m (p + 1) (baselineBytes (blockBase mono vs))
  average : bytesAt m (p + 1 + (baselineBytes (blockBase mono vs)).length) (averageBytes mono vs)
  residues : bytesAt m (p + 1 + (baselineBytes (blockBase mono vs)).length + (averageBytes mono vs).length)
    (packBytes (residueWidth (blockResidues mono vs)) ((blockResidues mono vs).map BitVec.toNat))
  fits : p + 1 + (baselineBytes (blockBase mono vs)).length + (averageBytes mono vs).length +
    ceilDiv (vs.length * residueWidth (blockResidues mono vs)) 8 ≤ fin

theorem length_encodeBlock (mono : Bool) (vs : List Word) : (encodeBlock mono vs).length =
    1 + (baselineBytes (blockBase mono vs)).length + (averageBytes mono vs).length +
      ceilDiv (vs.length * residueWidth (blockResidues mono vs)) 8 := by
  rw [encodeBlock_eq, List.length_cons, List.length_append, List.length_append, length_packBytes, List.length_map,
    length_blockResidues]
  omega

theorem blockAt_of_bytesAt {mono : Bool} {vs : List Word} (hm : bytesAt m p (encodeBlock mono vs))
    (h : p + (encodeBlock mono vs).length ≤ fin) : BlockAt m fin p mono vs := by
  rw [length_encodeBlock] at h
  rw [encodeBlock_eq, bytesAt_cons, bytesAt_append, bytesAt_append, List.length_append, ← Nat.add_assoc] at hm
  obtain ⟨htoken, ⟨hbaseline, haverage⟩, hresidues⟩ := hm
  exact ⟨htoken, hbaseline, haverage, hresidues, by omega⟩

variable {mono : Bool} {vs : List Word}

@[simp] theorem length_averageBytes (mono : Bool) (vs : List Word) :
    (averageBytes mono vs).length = if mono then 4 else 0 := by
  cases mono <;> simp [averageBytes]

theorem streamBytes_averageBytes (hm : bytesAt m p (averageBytes mono vs))
    (h : p + (averageBytes mono vs).length ≤ fin) :
    ∃ a, streamBytes m fin (if mono then 4 else 0) 0 p = .ok (a, p + (averageBytes mono vs).length) ∧
      (mono = true → BitVec.ofNat 32 a = blockAvg vs) := by
  cases mono with
  | false => exact ⟨0, rfl, nofun⟩
  | true => exact ⟨(blockAvg vs).toNat, streamBytes_bytesOf hm (blockAvg vs).isLt h, fun _ => BitVec.ofNat_toNat ..⟩

theorem reconstruct_blockResidues {avg : F32} (h : mono = true → avg = blockAvg vs) :
    reconstruct mono (blockBase mono vs) avg 0 (blockResidues mono vs) = vs := by
  cases mono with
  | false => exact reconstruct_plainResidues ..
  | true => rw [h rfl]; exact reconstruct_monoResidues ..

theorem refillBlock_of_blockAt (hb : BlockAt m fin p mono vs) :
    refillBlock mono vs.length m fin p = .ok (vs, p + (encodeBlock mono vs).length) := by
  obtain ⟨htoken, hbaseline, haverage, hresidues, hfits⟩ := hb
  have hwidth := residueWidth_le (blockResidues mono vs)
  obtain ⟨hlt, -⟩ := residueWidth_leastWidth (blockResidues mono vs)
  obtain ⟨a, havg, havg'⟩ := streamBytes_averageBytes haverage (fin := fin) (by omega)
  have hlen : ((blockResidues mono vs).map BitVec.toNat).length = vs.length := by simp
  have hunpack := unpackBytes_packed _ hlt
  have hpadded := paddedFields_lt (w := residueWidth (blockResidues mono vs)) _
    (le_eight_mul_ceilDiv (((blockResidues mono vs).map BitVec.toNat).length * residueWidth (blockResidues mono vs)))
  rw [packBytes] at hresidues
  rw [hlen] at hresidues hpadded
  rw [length_blockResidues] at hunpack
  rw [refillBlock, streamToken_tokenByte hwidth htoken (by omega)]
  dsimp only
  rw [streamBaseline_baselineBytes hbaseline (by omega)]
  dsimp only
  rw [havg]
  dsimp only
  rw [streamBytes_bytesOf hresidues hpadded hfits]
  dsimp only
  rw [hunpack, reconstruct_blockResidues havg', length_encodeBlock]
  congr 2
  omega

theorem skipBlock_of_blockAt (hb : BlockAt m fin p mono vs) :
    skipBlock mono vs.length m fin p = .ok (p + (encodeBlock mono vs).length) := by
  obtain ⟨htoken, hbaseline, -, -, hfits⟩ := hb
  have hwidth := residueWidth_le (blockResidues mono vs)
  rw [length_averageBytes] at hfits
  rw [skipBlock, streamToken_tokenByte hwidth htoken (by omega)]
  dsimp only
  rw [streamBaseline_baselineBytes hbaseline (by omega)]
  dsimp only
  rw [streamSkip_of_le (by omega)]
  dsimp only
  rw [streamSkip_of_le (by omega), length_encodeBlock, length_averageBytes]
  congr 1
  omega

end ReadBlock

/-- Settles O34: the parts of an encoded block, and the reader over them part by part. -/
theorem deltaBlockReadsBack : Obligations.DeltaBlockReadsBack := by
  refine ⟨fun mono vs hne _ => ?_, fun mono vs m p fin _ _ hm h => refillBlock_of_blockAt (blockAt_of_bytesAt hm h),
    fun mono vs m p fin _ _ hm h => skipBlock_of_blockAt (blockAt_of_bytesAt hm h)⟩
  refine ⟨blockBase mono vs, residueWidth (blockResidues mono vs), blockResidues mono vs,
    packBytes (residueWidth (blockResidues mono vs)) ((blockResidues mono vs).map BitVec.toNat),
    blockBase_isBaseline mono hne, length_blockResidues mono vs, fun i hi => getD_blockResidues mono hi,
    residueWidth_leastWidth _, residueWidth_le _, ?_, ?_, fun q hq => ?_⟩
  · rw [encodeBlock_eq, averageBytes, bytesOf_four]
    rfl
  · rw [length_packBytes, List.length_map, length_blockResidues]
    rfl
  · rw [getLsbD_packBytes _ _ hq, List.length_map, length_blockResidues, getD_map_toNat, BitVec.testBit_toNat]

end Sys2Proof.Machine
end

section
/-! PROOFS. Encoding and decoding back (40_bitpack R207): what a decoding reads of the array an encoding wrote. -/

namespace Sys2Proof.Machine

/-! ## The outcome of a command whose checks pass (40_bitpack R203 to R206) -/

theorem bpCheck_eq_none {s : State} {width src dst : Check} :
    width.or (unlessNoIterations s (src.or dst)) = none ↔
      width = none ∧ (s.args.a4 ≠ 0 → src = none ∧ dst = none) := by
  simp only [Option.or_eq_none_iff, unlessNoIterations_eq_none]

/-- The data memory after an encoding over disjoint arrays (R205, R206). -/
def encodedMemory (w : Nat) (f : Format) (b : BpArrays) (m : Memory) : Memory :=
  memWrite m b.dst b.dstBytes (bpEncoded w f m b)

theorem encodedMemory_wf {w : Nat} {f : Format} {b : BpArrays} {m : Memory} (hm : m.wf) :
    (encodedMemory w f b m).wf := memWrite_wf _ _ _ _ hm

theorem bpEncode_mem {w : Nat} {f : Format} {s t : State} {i : Instr} {b : BpArrays} {c : Check}
    (hx : exec i s = s.conclude c fun _ => bpEncode w f b s) (hc : c = none) (hov : bpOverlap b = false)
    (h : exec i s = .next t) : t.mem = encodedMemory w f b s.mem := by
  rw [hx, hc, conclude_none, bpEncode, hov] at h
  cases h
  rfl

/-- A decoding whose checks pass over disjoint arrays completes with its values in the destination. -/
theorem bpDecode_next {w : Nat} {f : Format} {s : State} {i : Instr} {b : BpArrays} {c : Check}
    (hx : exec i s = s.conclude c fun _ => bpDecode w f b s) (hc : c = none) (hb : BpDisjoint b) :
    ∃ t, exec i s = .next t ∧ t.mem = writeWords s.mem b.dst (bpDecoded w f s.mem b) := by
  rw [hx, hc, conclude_none, bpDecode, bpOverlap_of_disjoint hb]
  exact ⟨_, rfl, rfl⟩

/-! ## The arrays of the decoding -/

/-- The arrays of the decoding that reads what an encoding over `b` wrote, into the words from `back` on. -/
def decodeBack (b : BpArrays) (back : Nat) : BpArrays :=
  { src := b.dst, srcBytes := b.dstBytes, dst := back, dstBytes := 8 * b.values, values := b.values }

/-- The values of an encoding fill its destination (30_encoding R152, R154). -/
def FillsDestination (w : Nat) (b : BpArrays) : Format → Prop
  | .packed => b.values * w = 8 * b.dstBytes
  | .singleBlock => ∃ n, b.dstBytes = 8 * n ∧ b.values = n * (64 / w)

theorem encLL_fillsDestination (w : Nat) (f : Format) (s : State) : FillsDestination w (bpArraysEncLL w f s) f := by
  cases f with
  | packed => exact packed_bits_words ..
  | singleBlock => exact ⟨_, rfl, by simp [bpArraysEncLL, geom]⟩

theorem encLB_fillsDestination (w : Nat) (f : Format) (s : State) : FillsDestination w (bpArraysEncLB w f s) f := by
  cases f with
  | packed => exact packed_bits ..
  | singleBlock => exact ⟨_, Nat.mul_comm .., rfl⟩

/-! ## The values read back -/

section ReadBack

variable {w back j : Nat} {f : Format} {b : BpArrays} {m : Memory}

/-- Bit `k` of a value masked to its width. -/
theorem getLsbD_masked (v : Word) {k : Nat} (hk : k < 64) :
    (u64 (v.toNat % 2 ^ w)).getLsbD k = (decide (k < w) && v.getLsbD k) := by
  rw [BitVec.getLsbD_ofNat, decide_eq_true hk, Bool.true_and, Nat.testBit_mod_two_pow, BitVec.testBit_toNat]

/-- Bit `k` of the value `j` of PACKED data is stream bit `j * w + (w - 1 - k)`, and that is where it was encoded. -/
theorem decodeBack_packed (hm : m.wf) (hfill : FillsDestination w b .packed) (hj : j < b.values) :
    (bpDecoded w .packed (encodedMemory w .packed b m) (decodeBack b back)).getD j 0 =
      u64 ((readWord m (b.src + 8 * j)).toNat % 2 ^ w) := by
  have hend : j * w + w ≤ 8 * b.dstBytes := by
    rw [← hfill, ← Nat.succ_mul]
    exact Nat.mul_le_mul_right w hj
  refine BitVec.eq_of_getLsbD_eq fun k hk => ?_
  rw [getLsbD_bpDecoded_packed (b := decodeBack b back) hfill hj hk, getLsbD_masked _ hk]
  by_cases hkw : k < w
  · obtain ⟨hdiv, hmod⟩ := mul_add_div_mod (w := w) (r := w - 1 - k) j (by omega)
    have hbit := encoded_packed hm hfill (q := j * w + (w - 1 - k)) (by omega)
    rw [hdiv, hmod, show w - 1 - (w - 1 - k) = k by omega] at hbit
    exact congrArg (decide (k < w) && ·) hbit
  · rw [decide_eq_false hkw, Bool.false_and, Bool.false_and]

/-- Bit `k` of field `j mod K` of word `j div K` is bit `w * (j mod K) + k` of that word, and that is where it was
encoded. -/
theorem decodeBack_singleBlock (hm : m.wf) (hw : 0 < w) (hw' : w ≤ 64) (hfill : FillsDestination w b .singleBlock)
    (hj : j < b.values) :
    (bpDecoded w .singleBlock (encodedMemory w .singleBlock b m) (decodeBack b back)).getD j 0 =
      u64 ((readWord m (b.src + 8 * j)).toNat % 2 ^ w) := by
  obtain ⟨n, hdst, hval⟩ := hfill
  have hpos : 0 < 64 / w := Nat.div_pos hw' hw
  have hword : j / (64 / w) < n := (Nat.div_lt_iff_lt_mul hpos).2 (hval ▸ hj)
  refine BitVec.eq_of_getLsbD_eq fun k hk => ?_
  rw [getLsbD_masked _ hk, ← BitVec.testBit_toNat,
    toNat_bpDecoded_singleBlock (b := decodeBack b back) hdst hval hw' hj, Nat.testBit_mod_two_pow,
    Nat.testBit_div_two_pow, BitVec.testBit_toNat]
  by_cases hkw : k < w
  · obtain ⟨hdiv, hmod⟩ := mul_add_div_mod (j % (64 / w)) hkw
    have hin : j % (64 / w) * w + k < 64 / w * w := by
      have := Nat.mul_le_mul_right w (Nat.mod_lt j hpos)
      rw [Nat.succ_mul] at this
      omega
    have hbit := encoded_singleBlock hm hw hw' hdst hval hword (hin.trans_le (Nat.div_mul_le_self 64 w))
    rw [hdiv, hmod, decide_eq_true hin, Bool.true_and, Nat.div_add_mod'] at hbit
    rw [Nat.mul_comm w, Nat.add_comm k]
    exact congrArg (decide (k < w) && ·) hbit
  · rw [decide_eq_false hkw, Bool.false_and, Bool.false_and]

theorem length_bpDecoded_decodeBack (hfill : FillsDestination w b f) :
    (bpDecoded w f m (decodeBack b back)).length = b.values := by
  cases f with
  | packed => exact length_bpDecoded_packed
  | singleBlock =>
    obtain ⟨n, hdst, hval⟩ := hfill
    exact length_bpDecoded_singleBlock (b := decodeBack b back) hdst hval

theorem getD_bpDecoded_decodeBack (hm : m.wf) (hw : checkWidth w f = none) (hfill : FillsDestination w b f)
    (hj : j < b.values) : (bpDecoded w f (encodedMemory w f b m) (decodeBack b back)).getD j 0 =
      u64 ((readWord m (b.src + 8 * j)).toNat % 2 ^ w) := by
  cases f with
  | packed => exact decodeBack_packed hm hfill hj
  | singleBlock =>
    obtain ⟨hpos, hle⟩ := sbWidths_bounds ((require_eq_none ..).1 hw)
    exact decodeBack_singleBlock hm hpos (hle.trans (by decide)) hfill hj

/-- Decoding over `decodeBack b back` after an encoding over `b` leaves the values masked to the width (R207). -/
theorem decodeBack_outcome {u : State} {i : Instr} {c : Check} (hm : m.wf) (hw : checkWidth w f = none)
    (hfill : FillsDestination w b f) (hu : u.mem = encodedMemory w f b m)
    (hx : exec i u = u.conclude c fun _ => bpDecode w f (decodeBack b back) u) (hc : c = none)
    (hdis : BpDisjoint (decodeBack b back)) : ∃ v, exec i u = .next v ∧ ∀ j, j < b.values →
      readWord v.mem (back + 8 * j) = u64 ((readWord m (b.src + 8 * j)).toNat % 2 ^ w) := by
  obtain ⟨v, hv, hmem⟩ := bpDecode_next hx hc hdis
  refine ⟨v, hv, fun j hj => ?_⟩
  rw [hmem, hu]
  exact (readWord_writeWords _ _ _ (encodedMemory_wf hm) j (by rwa [length_bpDecoded_decodeBack hfill])).trans
    (getD_bpDecoded_decodeBack hm hw hfill hj)

end ReadBack

/-- Settles O28: the decoding's arrays are those of `decodeBack`, its checks pass because the encoding's did, and each
value is read back bit by bit. -/
theorem bpRoundTrip : Obligations.BpRoundTrip := by
  intro s t w f back hm hw
  constructor
  · intro ht hc hov b u halign hend hdis
    have hcfg : u.cfg = s.cfg := exec_cfg (t := t) ht
    have hmem : u.mem = encodedMemory w f b s.mem := bpEncode_mem (t := t) rfl hc hov ht
    obtain ⟨-, hchecks⟩ := bpCheck_eq_none.1 hc
    have hdec : bpCheckDecLL w f u = none := bpCheck_eq_none.2 ⟨hw, fun ha => by
      rw [hcfg]
      exact ⟨(hchecks ha).2, checkArray64_of_inside halign hend⟩⟩
    exact decodeBack_outcome hm hw (encLL_fillsDestination w f s) hmem rfl hdec hdis
  · intro ht hc hov b u halign hend hdis
    have hcfg : u.cfg = s.cfg := exec_cfg (t := t) ht
    have hmem : u.mem = encodedMemory w f b s.mem := bpEncode_mem (t := t) rfl hc hov ht
    obtain ⟨-, hchecks⟩ := bpCheck_eq_none.1 hc
    have hdec : bpCheckDecBL w f u = none := bpCheck_eq_none.2 ⟨hw, fun ha => by
      rw [hcfg]
      exact ⟨(hchecks ha).2, checkArray64_of_inside halign hend⟩⟩
    exact decodeBack_outcome hm hw (encLB_fillsDestination w f s) hmem rfl hdec hdis

end Sys2Proof.Machine
end

section
/-! PROOFS. What a command may change where the spec leaves its results open (40_bitpack R203 to R206, 46_ef_encoder
R430, R436, 47_ef_decoder R474): over overlapping arrays or regions, and over regions that hold no valid encoding. -/

namespace Sys2Proof.Machine

/-! ## Bytes outside a list of ranges (20_memory R100) -/

section OutsideRanges

variable {m m' m'' : Memory} {rs : List (Nat × Nat)}

theorem sameOutsideRanges_refl (m : Memory) (rs : List (Nat × Nat)) : sameOutsideRanges m m rs := fun _ _ => rfl

theorem sameOutsideRanges_trans (h : sameOutsideRanges m m' rs) (h' : sameOutsideRanges m' m'' rs) :
    sameOutsideRanges m m'' rs := fun x hx => (h' x hx).trans (h x hx)

/-- What changes one of the ranges alone changes nothing outside them all. -/
theorem sameOutsideRanges_of_mem {a n : Nat} (hr : (a, n) ∈ rs) (h : sameOutside m m' a n) :
    sameOutsideRanges m m' rs := fun x hx => h x (hx _ hr)

theorem sameOutsideRanges_havocRanges (s : State) (rs : List (Nat × Nat)) :
    sameOutsideRanges s.mem (s.havocRanges rs).mem rs := by
  induction rs generalizing s with
  | nil => exact sameOutsideRanges_refl _ _
  | cons r rs ih =>
    intro x hx
    obtain ⟨hr, hrs⟩ := List.forall_mem_cons.1 hx
    exact (ih (s.havoc r.1 r.2) x hrs).trans (sameOutside_havocBytes s.mem s.fresh r.1 r.2 x hr)

end OutsideRanges

/-! ## Overlapping arrays of the bit packer (40_bitpack R203 to R206) -/

/-- A command whose effect is to leave a range free changes that range and the count of draws alone. -/
theorem havoc_outcome {s u : State} {i : Instr} {c : Check} {a n : Nat} (hx : exec i s = s.conclude c fun _ => u)
    (hc : c = none) (hu : u = s.havoc a n) :
    ∃ t, exec i s = .next t ∧ t = ({ s with mem := t.mem, fresh := t.fresh }).complete ∧ sameOutside s.mem t.mem a n :=
  ⟨(s.havoc a n).complete, by rw [hx, hc, hu, conclude_none], rfl, sameOutside_havocBytes s.mem s.fresh a n⟩

theorem bpDecode_of_overlap {b : BpArrays} (h : bpOverlap b = true) (w : Nat) (f : Format) (s : State) :
    bpDecode w f b s = s.havoc b.dst b.dstBytes := if_pos h

theorem bpEncode_of_overlap {b : BpArrays} (h : bpOverlap b = true) (w : Nat) (f : Format) (s : State) :
    bpEncode w f b s = s.havoc b.dst b.dstBytes := if_pos h

/-! ## The Elias-Fano encoder, whether or not its regions overlap (46_ef_encoder R430) -/

theorem zeroRegions_outside (m : Memory) (y : EfLayout) : sameOutsideRanges m (zeroRegions m y) (efRegions y) :=
  sameOutsideRanges_trans
    (sameOutsideRanges_trans
      (sameOutsideRanges_of_mem (mem_efRegions.2 (.inl rfl)) (sameOutside_memWrite _ _ _ 0))
      (sameOutsideRanges_of_mem (mem_efRegions.2 (.inr (.inl rfl))) (sameOutside_memWrite _ _ _ 0)))
    (sameOutsideRanges_of_mem (mem_efRegions.2 (.inr (.inr rfl))) (sameOutside_memWrite _ _ _ 0))

/-- Settling the regions of a layout changes nothing outside them. -/
theorem settleRegions_outside {m : Memory} {s : State} {y : EfLayout} (h : sameOutsideRanges m s.mem (efRegions y)) :
    sameOutsideRanges m (s.settleRegions y).mem (efRegions y) := by
  unfold State.settleRegions
  split
  · exact sameOutsideRanges_trans h (sameOutsideRanges_havocRanges s _)
  · exact h

section Encoder

variable {p : Params} {c : EfEncoder}

/-- The regions of the encoder's context, in terms of its fields (30_encoding R180). -/
theorem mem_efRegions_efeLayout (h : c.state = .encoding) (hc : EfeInv p c) {r : Nat × Nat} :
    r ∈ efRegions (efeLayout c) ↔ r = (c.ub.toNat, 8 * (efParamsOf (efeLayout c)).uw) ∨
      r = (c.lb.toNat, 8 * ceilDiv (c.n.toNat * c.l.toNat) 64) ∨
      r = (c.ib.toNat, 8 * ceilDiv (c.nidx.toNat * c.e.toNat) 64) := by
  obtain ⟨-, ⟨hl, he, hnidx⟩, -⟩ := (efeInv_of_encoding h).1 hc
  rw [mem_efRegions, hl, he, hnidx]
  rfl

/-- The index entries in a row stay in the index region (46_ef_encoder R432, R435). -/
theorem putEntries_outside (h : c.state = .encoding) (hc : EfeInv p c) (bound : Option Nat) (cnt : Nat) (m : Memory) :
    sameOutsideRanges m (putEntries c bound cnt (c.nidx.toNat - c.next.toNat) m c.next.toNat).1
      (efRegions (efeLayout c)) := by
  obtain ⟨-, -, -, -, hnext⟩ := (efeInv_of_encoding h).1 hc
  exact sameOutsideRanges_of_mem ((mem_efRegions_efeLayout h hc).2 (.inr (.inr rfl)))
    (sameOutside_putEntries bound cnt m (fun hk => efe_e_pos h hc (by omega)) (by omega))

/-- The three writes of a value that is encoded stay in the regions (46_ef_encoder R432). -/
theorem encodeValue_outside_of_inv {x : Nat} (h : c.state = .encoding) (hc : EfeInv p c)
    (hn : c.numEnc.toNat < c.n.toNat) (hx : x ≤ c.u.toNat) (m : Memory) :
    sameOutsideRanges m (encodeValue c x m).1 (efRegions (efeLayout c)) := by
  obtain ⟨-, ⟨hl, -⟩, -⟩ := (efeInv_of_encoding h).1 hc
  have hbit : c.numEnc.toNat + x / 2 ^ c.l.toNat < 64 * (efParamsOf (efeLayout c)).uw := by
    have hhigh : x / 2 ^ c.l.toNat ≤ (efParamsOf (efeLayout c)).h := by
      rw [hl]
      exact Nat.div_le_div_right hx
    exact (show _ < c.n.toNat + (efParamsOf (efeLayout c)).h by omega).trans_le (le_64_mul_ceilDiv _)
  rw [encodeValue_eq]
  exact sameOutsideRanges_trans
    (sameOutsideRanges_trans
      (sameOutsideRanges_of_mem ((mem_efRegions_efeLayout h hc).2 (.inl rfl)) (sameOutside_setUpperBit m _ hbit))
      (sameOutsideRanges_of_mem ((mem_efRegions_efeLayout h hc).2 (.inr (.inl rfl))) (sameOutside_putLow hn x _)))
    (putEntries_outside h hc _ _ _)

end Encoder

section EncoderCommands

variable {s t : State}

theorem efeInitEffect_outside (s : State) :
    sameOutsideRanges s.mem (efeInitEffect s).mem (efRegions (efLayoutOfArgs s.args)) := by
  unfold efeInitEffect
  simp only [State.setRes0_mem, State.setRes1_mem, State.setRes2_mem, State.setRes3_mem]
  exact settleRegions_outside (s := { s with mem := _, efe := _ }) (zeroRegions_outside s.mem _)

theorem efeEncodeEffect_outside (hs : EfeInv s.cfg s.efe) (hc : efeEncodeCheck s = none) :
    sameOutsideRanges s.mem (efeEncodeEffect s).mem (efRegions (efeLayout s.efe)) := by
  obtain ⟨⟨⟨hstate, -⟩, -⟩, hu⟩ := (efeEncodeCheck_eq_none s).1 hc
  unfold efeEncodeEffect
  rw [overlapResult_mem]
  exact settleRegions_outside (s := { s with mem := _, efe := _ })
    (encodeValue_outside_of_inv hstate hs (numEnc_lt_of_check hs hc) hu s.mem)

theorem efeFinishEffect_outside (hs : EfeInv s.cfg s.efe) (hc : efeFinishCheck s = none) :
    sameOutsideRanges s.mem (efeFinishEffect s).mem (efRegions (efeLayout s.efe)) := by
  obtain ⟨hstate, -⟩ := (efeFinishCheck_eq_none s).1 hc
  unfold efeFinishEffect
  rw [overlapResult_mem]
  exact settleRegions_outside (s := { s with mem := _, efe := _ }) (putEntries_outside hstate hs _ _ s.mem)

/-- What holds of the memory before a command and after its effect holds of the memory after the command. -/
theorem exec_outside {u : State} {i : Instr} {c : Check} {rs : List (Nat × Nat)} (h : exec i s = .next t)
    (hx : exec i s = s.conclude c fun _ => u) (hu : c = none → sameOutsideRanges s.mem u.mem rs) :
    sameOutsideRanges s.mem t.mem rs :=
  conclude_keeps (P := fun u => sameOutsideRanges s.mem u.mem rs) (hx ▸ h) (fun _ _ => sameOutsideRanges_refl _ _) hu

/-- A command of the encoder changes nothing but its context, its results, the data memory and its completion. -/
theorem exec_efEncoder_frame {i : Instr} (hi : unitOf i = .efEncoder) (h : exec i s = .next t) :
    t = { s with mem := t.mem, fresh := t.fresh, efe := t.efe, res := t.res, status := t.status, irq := t.irq,
                 errInfo := t.errInfo } := by
  obtain ⟨u, hu, -, rfl⟩ | ⟨e, v, rfl⟩ | ⟨hdd, -⟩ := exec_cases i s t h
  · rw [hi] at hu
    rw [hu]
    rfl
  · rfl
  · simp [hi] at hdd

end EncoderCommands

/-! ## The Elias-Fano decoder, whatever its regions hold (47_ef_decoder R474) -/

/-- What a command of the decoder leaves when it is admitted: the cursor and two results may have changed, the direction
is `d`, and nothing else changed. -/
def CursorFrame (s u : State) (d : Direction) : Prop :=
  u = { s with
    efd := { s.efd with idx := u.efd.idx, hp := u.efd.hp, dir := d }
    res := { s.res with r0 := u.res.r0, r1 := u.res.r1 }
    fresh := u.fresh }

theorem cursorFrame_of_frames {s u : State} {d : Direction} (hframe : EffectFrame .efDecoder s u)
    (hefd : SameEncoding s.efd u.efd) (hres : u.res = { s.res with r0 := u.res.r0, r1 := u.res.r1 })
    (hdir : u.efd.dir = d) : CursorFrame s u d := by
  rw [CursorFrame, ← hdir, ← hefd, ← hres]
  exact hframe

theorem efdMove_cursorFrame (s : State) (target : List Nat → Int) : CursorFrame s (s.efdMove target) s.efd.dir := by
  refine cursorFrame_of_frames (efdMove_frame s _) (efdMove_sameEncoding s _) (efdMove_res s _) ?_
  unfold State.efdMove
  split <;> rfl

theorem efdToAfterEffect_cursorFrame (s : State) : CursorFrame s (efdToAfterEffect s) .backward := by
  refine cursorFrame_of_frames (efdToAfterEffect_frame s) (efdToAfterEffect_sameEncoding s) ?_ ?_
  · rw [efdToAfterEffect_res]
  · unfold efdToAfterEffect
    split <;> rfl

theorem efdCurrentEffect_cursorFrame (s : State) : CursorFrame s (efdCurrentEffect s) s.efd.dir := by
  refine cursorFrame_of_frames (efdCurrentEffect_frame s) (efdCurrentEffect_sameEncoding s)
    (efdCurrentEffect_res s) ?_
  unfold efdCurrentEffect
  split <;> rfl

/-- The outcome of a command of the decoder that is admitted. -/
theorem CursorFrame.outcome {s u : State} {i : Instr} {c : Check} {d : Direction} (hu : CursorFrame s u d)
    (hx : exec i s = s.conclude c fun _ => u) (hc : c = none)
    (hd : d = if i = .efdToAfter then .backward else s.efd.dir) :
    ∃ t, exec i s = .next t ∧
      t = ({ s with
        efd := { s.efd with idx := t.efd.idx, hp := t.efd.hp, dir := t.efd.dir }
        res := { s.res with r0 := t.res.r0, r1 := t.res.r1 }
        fresh := t.fresh }).complete ∧
      t.efd.dir = (if i = .efdToAfter then .backward else s.efd.dir) := by
  have hdir : u.efd.dir = d := by rw [hu]
  refine ⟨u.complete, by rw [hx, hc, conclude_none], ?_, hdir.trans hd⟩
  rw [State.complete_efd, hdir]
  exact congrArg State.complete hu

theorem efdAdmitted {s : State} {d : Direction} (hs : s.efd.state = .ready) (hd : s.efd.dir = d) :
    (checkEfdReady s).or (checkDirection s d) = none :=
  Option.or_eq_none_iff.2 ⟨(checkEfdReady_eq_none s).2 hs, require_pos hd ..⟩

/-! ## Encodings that are not finished (46_ef_encoder R436, 70_reset R590) -/

theorem rangesMeet_of_shared {r q : Nat × Nat} {x : Nat} (hr : r.1 ≤ x ∧ x < r.1 + r.2) (hq : q.1 ≤ x ∧ x < q.1 + q.2) :
    rangesMeet r q = true := by
  simp only [rangesMeet, Bool.and_eq_true, decide_eq_true_eq]
  omega

theorem efdSequence_of_unfinished {s : State} {r q : Nat × Nat} {x : Nat} (hs : s.efe.state = .encoding)
    (hr : r ∈ efRegions (efeLayout s.efe)) (hxr : r.1 ≤ x ∧ x < r.1 + r.2)
    (hq : q ∈ efRegions (efdLayout s.efd)) (hxq : q.1 ≤ x ∧ x < q.1 + q.2) : efdSequence s = none := by
  refine if_pos ?_
  rw [efdUnfinished, decide_eq_true hs, Bool.true_and]
  exact List.any_eq_true.2 ⟨r, hr, List.any_eq_true.2 ⟨q, hq, rangesMeet_of_shared hxr hxq⟩⟩

/-! ## The statement -/

/-- Settles O27: an overlapping command of the bit packer leaves its destination free; the encoder's writes and the
ranges it leaves free lie in its regions; the decoder moves its cursor alone, with or without a sequence; and an
encoding that is not finished gives it none. -/
theorem unspecifiedResultsStayInside : Obligations.UnspecifiedResultsStayInside := by
  refine ⟨fun s w f _ => ?_, fun s t i hi _ hinv h => ?_, fun s i hs _ hi => ?_,
    fun s x hs ⟨r, hr, hxr⟩ ⟨q, hq, hxq⟩ => efdSequence_of_unfinished hs hr hxr hq hxq⟩
  · simp only [List.forall_mem_cons]
    exact ⟨fun hc hov => havoc_outcome rfl hc (bpDecode_of_overlap hov w f s),
      fun hc hov => havoc_outcome rfl hc (bpDecode_of_overlap hov w f s),
      fun hc hov => havoc_outcome rfl hc (bpEncode_of_overlap hov w f s),
      fun hc hov => havoc_outcome rfl hc (bpEncode_of_overlap hov w f s), List.forall_mem_nil _⟩
  · obtain rfl | rfl | rfl := hi
    · exact ⟨exec_efEncoder_frame rfl h, exec_outside h rfl fun _ => efeInitEffect_outside s⟩
    · exact ⟨exec_efEncoder_frame rfl h, exec_outside h rfl (efeEncodeEffect_outside hinv)⟩
    · exact ⟨exec_efEncoder_frame rfl h, exec_outside h rfl (efeFinishEffect_outside hinv)⟩
  · obtain ⟨rfl | rfl, hd⟩ | ⟨rfl | rfl, hd⟩ | rfl | rfl := hi
    · exact (efdMove_cursorFrame s _).outcome rfl (efdAdmitted hs hd) rfl
    · exact (efdMove_cursorFrame s _).outcome rfl (efdAdmitted hs hd) rfl
    · exact (efdMove_cursorFrame s _).outcome rfl (efdAdmitted hs hd) rfl
    · exact (efdMove_cursorFrame s _).outcome rfl (efdAdmitted hs hd) rfl
    · exact (efdToAfterEffect_cursorFrame s).outcome rfl ((checkEfdReady_eq_none s).2 hs) rfl
    · exact (efdCurrentEffect_cursorFrame s).outcome rfl ((checkEfdReady_eq_none s).2 hs) rfl

end Sys2Proof.Machine
end

section
/-! PROOFS. The format selector (41_format_selector R240 to R242): its choice follows the chain of R241, and every width
the chain gives is within the budget and legal for its format. -/

namespace Sys2Proof.Machine

open Sys2Proof.Laws

/-! ## The scan of the single-block widths -/

/-- The scan of R241 stops at `w`: the width is at least the asked one and its padding within the budget. -/
abbrev SingleBlockFits (bpv ratio w : Nat) : Prop :=
  bpv ≤ w ∧ w ≤ fsMaxBits bpv ratio ∧
    (((64 % w) * 65536 : Nat) : Int) ≤
      ((fsAcc bpv ratio : Int) + ((bpv : Int) - (w : Int)) * 65536) * ((64 / w : Nat) : Int)

theorem not_of_find?_eq_some_of_lt {l : List Nat} {p : Nat → Bool} {w : Nat} (hl : l.Pairwise (· < ·))
    (h : l.find? p = some w) : ∀ w' ∈ l, w' < w → ¬ p w' := by
  obtain ⟨-, before, after, rfl, hbefore⟩ := List.find?_eq_some_iff_append.1 h
  obtain ⟨-, hafter, -⟩ := List.pairwise_append.1 hl
  intro w' hmem hlt
  obtain hmem | rfl | hmem := by simpa using hmem
  · simpa using hbefore w' hmem
  · exact absurd hlt (Nat.lt_irrefl _)
  · exact absurd ((List.pairwise_cons.1 hafter).1 w' hmem) (Nat.lt_asymm hlt)

theorem singleBlockPick_eq_find? (bpv ratio : Nat) :
    singleBlockPick bpv (fsMaxBits bpv ratio) (fsAcc bpv ratio) =
      sbWidths.find? (fun w => decide (SingleBlockFits bpv ratio w)) := rfl

theorem singleBlockPick_some {bpv ratio w : Nat}
    (h : singleBlockPick bpv (fsMaxBits bpv ratio) (fsAcc bpv ratio) = some w) :
    w ∈ sbWidths ∧ SingleBlockFits bpv ratio w ∧ ∀ w' ∈ sbWidths, w' < w → ¬ SingleBlockFits bpv ratio w' := by
  rw [singleBlockPick_eq_find?] at h
  have hmin := not_of_find?_eq_some_of_lt (by decide) h
  exact ⟨List.mem_of_find?_eq_some h, of_decide_eq_true (List.find?_some h :),
    fun w' hmem hlt hfits => hmin w' hmem hlt (decide_eq_true hfits)⟩

theorem singleBlockPick_none {bpv ratio : Nat}
    (h : singleBlockPick bpv (fsMaxBits bpv ratio) (fsAcc bpv ratio) = none) :
    ∀ w ∈ sbWidths, ¬ SingleBlockFits bpv ratio w := by
  rw [singleBlockPick_eq_find?] at h
  exact fun w hmem hfits => List.find?_eq_none.1 h w hmem (decide_eq_true hfits)

/-! ## The chain of R241 -/

/-- The rule of R241: the format id `f` and the width `w` are the ones its chain gives. -/
def SelectorRule (p : Params) (bpv vc ratio f w : Nat) : Prop :=
  if bpv ≤ 8 ∧ 8 ≤ fsMaxBits bpv ratio then f = 0 ∧ w = 8
  else if bpv ≤ 16 ∧ 16 ≤ fsMaxBits bpv ratio then f = 0 ∧ w = 16
  else if bpv ≤ 32 ∧ 32 ≤ fsMaxBits bpv ratio then f = 0 ∧ w = 32
  else if bpv ≤ 64 ∧ 64 ≤ fsMaxBits bpv ratio then f = 0 ∧ w = 64
  else if vc ≤ p.max24 ∧ bpv ≤ 24 ∧ 24 ≤ fsMaxBits bpv ratio then f = 0 ∧ w = 24
  else if vc ≤ p.max48 ∧ bpv ≤ 48 ∧ 48 ≤ fsMaxBits bpv ratio then f = 0 ∧ w = 48
  else (f = 1 ∧ w ∈ sbWidths ∧ SingleBlockFits bpv ratio w ∧
      ∀ w' ∈ sbWidths, w' < w → ¬ SingleBlockFits bpv ratio w') ∨
    (f = 0 ∧ w = bpv ∧ ∀ w' ∈ sbWidths, ¬ SingleBlockFits bpv ratio w')

theorem fsChoose_selectorRule (p : Params) (bpv vc ratio : Nat) :
    SelectorRule p bpv vc ratio (formatId (fsChoose p bpv vc ratio).1) (fsChoose p bpv vc ratio).2 := by
  have hcount (k max : Nat) : bpv ≤ k ∧ k ≤ fsMaxBits bpv ratio ∧ vc ≤ max ↔
      vc ≤ max ∧ bpv ≤ k ∧ k ≤ fsMaxBits bpv ratio := (and_rotate (a := vc ≤ max)).symm
  unfold SelectorRule fsChoose
  simp only [hcount]
  split_ifs
  iterate 6 exact ⟨rfl, rfl⟩
  cases hpick : singleBlockPick bpv (fsMaxBits bpv ratio) (fsAcc bpv ratio) with
  | some w => exact .inl ⟨rfl, singleBlockPick_some hpick⟩
  | none => exact .inr ⟨rfl, rfl, singleBlockPick_none hpick⟩

/-- Every width the chain gives is at least the asked one, within the budget, at most a word, and a single-block one
where the format is PACKED_SINGLE_BLOCK. -/
theorem SelectorRule.within {p : Params} {bpv vc ratio f w : Nat} (h : SelectorRule p bpv vc ratio f w)
    (hw : bpv ≤ 64) :
    bpv ≤ w ∧ w ≤ min (fsMaxBits bpv ratio) 64 ∧ (f = 0 ∨ f = 1 ∧ w ∈ sbWidths) := by
  have hmax : bpv ≤ fsMaxBits bpv ratio := Nat.le_add_right ..
  unfold SelectorRule at h
  split_ifs at h
  iterate 6
    obtain ⟨rfl, rfl⟩ := h
    exact ⟨by omega, by omega, .inl rfl⟩
  obtain ⟨rfl, hmem, ⟨hge, hle, -⟩, -⟩ | ⟨rfl, rfl, -⟩ := h
  · exact ⟨hge, le_min hle ((sbWidths_bounds hmem).2.trans (by decide)), .inr ⟨rfl, hmem⟩⟩
  · exact ⟨le_rfl, le_min hmax hw, .inl rfl⟩

/-- Without an acceptable overhead the budget is the asked width. -/
theorem fsMaxBits_zero (bpv : Nat) : fsMaxBits bpv 0 = bpv := by
  simp [fsMaxBits, fsAcc, clampRatio]

/-! ## The command -/

theorem formatResult_eq (f : Format) : formatResult f = u64 (formatId f) := by cases f <;> rfl

theorem exec_fsSelect_of_legal (s : State) {bpv : Nat} (h : 1 ≤ bpv ∧ bpv ≤ 64) :
    ∃ f w, SelectorRule s.cfg bpv s.args.a0.toNat s.args.a1.toNat f w ∧
      exec (.fsSelect bpv) s = .next ({ s with
        res := { s.res with
          r0 := u64 f, r1 := u64 w, r2 := u64 (min (fsMaxBits bpv s.args.a1.toNat) 64) } }).complete := by
  refine ⟨_, _, fsChoose_selectorRule .., ?_⟩
  rw [exec, execFsSelect, (checkBpv_eq_none bpv).2 h, conclude_none, ← formatResult_eq]
  rfl

/-- Settles O20: the command's results are those of the chain, whose widths lie between the asked one and the budget. -/
theorem fsSelectChooses : Obligations.FsSelectChooses := by
  refine ⟨fun s bpv => ⟨fun h => plainWidth_rejected s h _ (.head _), fun h => ?_⟩, fun s t bpv h1 h64 ht => ?_⟩
  · obtain ⟨f, w, hrule, hexec⟩ := exec_fsSelect_of_legal s h
    exact ⟨f, w, hexec, hrule⟩
  · obtain ⟨f, w, hrule, hexec⟩ := exec_fsSelect_of_legal s ⟨h1, h64⟩
    obtain ⟨hge, hle, hformat⟩ := hrule.within h64
    obtain rfl := Host.Outcome.next.inj (ht.symm.trans hexec)
    have hmax : min (fsMaxBits bpv s.args.a1.toNat) 64 ≤ 64 := min_le_right ..
    simp only [State.complete_res, toNat_u64_of_le hmax, toNat_u64_of_le (hle.trans hmax)]
    refine ⟨hge, hle, hmax, ?_, fun hratio => ?_⟩
    · obtain rfl | ⟨rfl, hmem⟩ := hformat
      · exact .inl ⟨rfl, require_pos ⟨h1.trans hge, hle.trans hmax⟩ ..⟩
      · exact .inr ⟨rfl, require_pos hmem ..⟩
    · rw [hratio] at hle
      exact le_antisymm ((hle.trans (min_le_left ..)).trans (fsMaxBits_zero bpv).le) hge

end Sys2Proof.Machine
end

section
/-! PROOFS. The initialisations by a block or page size (42_delta_encoder R261, R264, R265, 43_delta_decoder R304, R305,
44_growable_buffer R344, R345). -/

namespace Sys2Proof.Machine

theorem isPow2_iff (n : Nat) : isPow2 n = true ↔ ∃ k, n = 2 ^ k := by
  rw [isPow2, Bool.and_eq_true, bne_iff_ne, beq_iff_eq]
  constructor
  · rintro ⟨-, hlog⟩
    exact ⟨Nat.log2 n, hlog.symm⟩
  · rintro ⟨k, rfl⟩
    exact ⟨(Nat.two_pow_pos k).ne', by rw [Nat.log2_two_pow]⟩

theorem legalBlockSize_iff (b : Nat) : legalBlockSize b ↔ (∃ k, b = 2 ^ k) ∧ 64 ≤ b ∧ b ≤ 4096 := by
  rw [legalBlockSize, isPow2_iff]

/-- The six commands whose first operand is a block or page size check that size, and nothing else. -/
theorem exec_blockInit_eq_conclude (s : State) :
    ∀ i ∈ [Instr.deInit, .deInitMono, .ddInit, .ddInitMono, .gbInit, .gbInitMono],
      ∃ f, exec i s = s.conclude (checkBlockSize s.args.a0) f := by
  simp only [List.forall_mem_cons]
  exact ⟨⟨_, by rw [exec, execDeInit]⟩, ⟨_, by rw [exec, execDeInitMono]⟩, ⟨_, by rw [exec, execDdInit]⟩,
    ⟨_, by rw [exec, execDdInitMono]⟩, ⟨_, by rw [exec, execGbInit]⟩, ⟨_, by rw [exec, execGbInitMono]⟩, nofun⟩

/-- Settles O29: the check of the size says whether the command's whole outcome is its context or the rejection. -/
theorem blockUnitsInitialise : Obligations.BlockUnitsInitialise := by
  intro s b legal zeros
  refine ⟨fun hlegal => ?_, fun hlegal i hi => ?_⟩
  · have hcheck : checkBlockSize s.args.a0 = none :=
      (checkBlockSize_eq_none _).2 ((legalBlockSize_iff _).2 hlegal)
    simp only [exec, execDeInit, execDeInitMono, execDdInit, execDdInitMono, execGbInit, execGbInitMono, hcheck,
      conclude_none]
    exact ⟨rfl, rfl, rfl, rfl, rfl, rfl⟩
  · obtain ⟨f, hexec⟩ := exec_blockInit_eq_conclude s i hi
    have hcheck : checkBlockSize s.args.a0 = some (.invalidArgument, s.args.a0) :=
      require_neg (mt (legalBlockSize_iff _).1 hlegal) ..
    rw [hexec, hcheck, conclude_some]

end Sys2Proof.Machine
end

section
/-! PROOFS. What the delta encoder writes (42_delta_encoder R262, R263, R266, R267): nothing while the block fills, and
the block's bytes at OUT_PTR when it is full or the writer finishes. -/

namespace Sys2Proof.Machine

/-! ## Writing to the output stream (20_memory R112) -/

theorem State.emit_nil (s : State) : s.emit [] = s := by
  simp [State.emit, writeBytes]

/-- Bytes that fit the output stream advance OUT_PTR past them and are the only bytes that change. -/
theorem emit_writes {s : State} {bs : List Byte} (hm : s.mem.wf)
    (hroom : s.outPtr.toNat + bs.length ≤ s.outEnd.toNat) :
    (s.emit bs).outPtr.toNat = s.outPtr.toNat + bs.length ∧ bytesAt (s.emit bs).mem s.outPtr.toNat bs ∧
      sameOutside s.mem (s.emit bs).mem s.outPtr.toNat bs.length :=
  ⟨Nat.mod_eq_of_lt (hroom.trans_lt s.outEnd.isLt), readByte_writeBytes _ _ _ hm, sameOutside_writeBytes _ _ _⟩

/-! ## An initialised writer with a legal stream range (R262) -/

section Writer

variable {s : State}

theorem checkWriter_of_working (hd : s.de.state = .idle ∨ s.de.state = .buffering)
    (hptr : s.outPtr.toNat ≤ s.outEnd.toNat) (hend : s.outEnd.toNat ≤ s.cfg.memBytes) : checkWriter s = none := by
  refine (checkWriter_eq_none s).2 ⟨?_, (checkOut_eq_none s).2 ⟨hptr, hend⟩⟩
  obtain hd | hd := hd <;> simp [hd]

theorem checkRoom_nil (s : State) : checkRoom s [] = none := require_pos (Nat.zero_le _) ..

theorem checkRoom_of_room {bs : List Byte} (hroom : s.outPtr.toNat + bs.length ≤ s.outEnd.toNat) :
    checkRoom s bs = none := require_pos (by omega) ..

theorem exec_deAdd_of_room {bs : List Byte} (hbs : deAddBytes s.de s.args.a0 = bs) (hw : checkWriter s = none)
    (hroom : checkRoom s bs = none) : exec .deAdd s =
      .next (({ s.emit bs with de := deAddContext s.de s.args.a0 }).setRes0 (s.de.ord + 1)).complete := by
  simp only [exec, execDeAdd, hbs, hw, hroom, Option.none_or, conclude_none]

theorem exec_deFinish_of_room {bs : List Byte} (hbs : deFinishBytes s.de = bs) (hw : checkWriter s = none)
    (hroom : checkRoom s bs = none) : exec .deFinish s =
      .next (({ s.emit bs with de := { s.de with pending := 0, state := .finished } }).setRes0 s.de.ord).complete := by
  simp only [exec, execDeFinish, hbs, hw, hroom, Option.none_or, conclude_none]

/-! ## `DE_ADD` (R266) -/

theorem deAddContext_of_fills {d : DeltaEncoder} (v : Word) (h : deFills d) :
    deAddContext d v = { d with pending := 0, state := .idle, ord := d.ord + 1 } := if_pos h

theorem deAddContext_of_not_fills {d : DeltaEncoder} (v : Word) (h : ¬ deFills d) :
    deAddContext d v = { d with
      buf := d.buf.set d.pending.toNat v, pending := d.pending + 1, state := .buffering, ord := d.ord + 1 } := if_neg h

theorem deAdd_buffers (hw : checkWriter s = none) (h : ¬ deFills s.de) :
    exec .deAdd s = .next ({ s with
      de := { s.de with buf := s.de.buf.set s.de.pending.toNat s.args.a0, pending := s.de.pending + 1,
                        state := .buffering, ord := s.de.ord + 1 }
      res := { s.res with r0 := s.de.ord + 1 } }).complete := by
  rw [exec_deAdd_of_room (if_neg h) hw (checkRoom_nil s), State.emit_nil, deAddContext_of_not_fills _ h]
  rfl

theorem deAdd_writes (hw : checkWriter s = none) (h : deFills s.de) {bs : List Byte}
    (hbs : encodeBlock s.de.mono (deBuffered s.de ++ [s.args.a0]) = bs)
    (hroom : s.outPtr.toNat + bs.length ≤ s.outEnd.toNat) :
    exec .deAdd s = .next ({ s.emit bs with
      de := { s.de with pending := 0, state := .idle, ord := s.de.ord + 1 }
      res := { s.res with r0 := s.de.ord + 1 } }).complete := by
  rw [exec_deAdd_of_room ((if_pos h).trans hbs) hw (checkRoom_of_room hroom), deAddContext_of_fills _ h]
  rfl

/-! ## `DE_FINISH` (R267) -/

theorem deFinish_closes_empty (hw : checkWriter s = none) (h : s.de.pending = 0) :
    exec .deFinish s = .next ({ s with
      de := { s.de with state := .finished }, res := { s.res with r0 := s.de.ord } }).complete := by
  rw [exec_deFinish_of_room (if_pos h) hw (checkRoom_nil s), State.emit_nil, ← h]
  rfl

theorem deFinish_writes (hw : checkWriter s = none) (h : s.de.pending ≠ 0) {bs : List Byte}
    (hbs : encodeBlock s.de.mono (deBuffered s.de) = bs)
    (hroom : s.outPtr.toNat + bs.length ≤ s.outEnd.toNat) :
    exec .deFinish s = .next ({ s.emit bs with
      de := { s.de with pending := 0, state := .finished }, res := { s.res with r0 := s.de.ord } }).complete := by
  rw [exec_deFinish_of_room ((if_neg h).trans hbs) hw (checkRoom_of_room hroom)]
  rfl

end Writer

/-- Settles O30: a command that passes its checks without a block to write changes the context only; with one, the
context and what the block's bytes change. -/
theorem deltaWriterWrites : Obligations.DeltaWriterWrites := by
  refine ⟨fun s hd hm hptr hend => ?_, fun s hd hm hptr hend => ?_⟩
  · have hw := checkWriter_of_working hd hptr hend
    refine ⟨fun h => deAdd_buffers hw h, fun h => ?_⟩
    intro bs hroom
    exact ⟨_, deAdd_writes hw h rfl hroom, rfl, emit_writes hm hroom⟩
  · have hw := checkWriter_of_working hd hptr hend
    refine ⟨fun h => deFinish_closes_empty hw h, fun h => ?_⟩
    intro bs hroom
    exact ⟨_, deFinish_writes hw h rfl hroom, rfl, emit_writes hm hroom⟩

end Sys2Proof.Machine
end

section
/-! PROOFS. The size of a block and of a block varint in bytes (30_encoding R170, 42_delta_encoder R270). -/

namespace Sys2Proof.Machine

/-- Short of the last allowed byte, which is whole, a varint is as long as the groups of seven bits that hold its value
are many. -/
theorem length_bvlGroups_le_iff {k n : Nat} (v : Nat) (hn : n < k) :
    (bvlGroups k v).length ≤ n + 1 ↔ v < 2 ^ (7 * (n + 1)) := by
  induction k generalizing n v with
  | zero => omega
  | succ k ih =>
    rw [bvlGroups]
    split
    · next hv =>
      have hpow : 2 ^ 7 ≤ 2 ^ (7 * (n + 1)) := Nat.pow_le_pow_right (by decide) (by omega)
      exact iff_of_true (by simp) (hv.trans_le hpow)
    · next hv =>
      rw [List.length_cons, Nat.succ_le_succ_iff]
      cases n with
      | zero =>
        have := bvlGroups_length_pos k (v / 128)
        omega
      | succ n =>
        rw [ih (v / 128) (by omega), Nat.div_lt_iff_lt_mul (by decide), show 128 = 2 ^ 7 from rfl, ← Nat.pow_add]
        rfl

theorem length_bvl_le_iff {n : Nat} (v : Word) (h1 : 1 ≤ n) (h8 : n ≤ 8) :
    (bvl v).length ≤ n ↔ v.toNat < 2 ^ (7 * n) := by
  obtain ⟨n, rfl⟩ := Nat.exists_eq_add_of_le' h1
  exact length_bvlGroups_le_iff v.toNat h8

theorem length_bvl_bounds (v : Word) : 1 ≤ (bvl v).length ∧ (bvl v).length ≤ 9 :=
  ⟨bvlGroups_length_pos 8 v.toNat, bvlGroups_length_le 8 v.toNat⟩

theorem ceilDiv_eight (n : Nat) : ceilDiv n 8 = (n + 7) / 8 := rfl

theorem length_baselineBytes (base : Word) :
    (baselineBytes base).length = if base = 0 then 0 else (bvl (zz base)).length := apply_ite List.length ..

/-- The residues in terms of the baseline alone: the average of a monotonic block starts at it. -/
theorem blockResidues_eq (mono : Bool) (vs : List Word) : blockResidues mono vs =
    if mono then monoResidues (blockBase mono vs) (monoAvg (blockBase mono vs) (vs.getLastD 0) vs.length) 0 vs
    else plainResidues (blockBase mono vs) vs := by
  cases mono with
  | false => rw [blockResidues, if_neg Bool.false_ne_true, if_neg Bool.false_ne_true]
  | true => rfl

/-- Settles O32: the block by its parts, the varint by the number of groups that hold its value. -/
theorem deltaBlockSize : Obligations.DeltaBlockSize := by
  refine ⟨fun mono vs _ => ?_, fun v => ?_⟩
  · rw [length_encodeBlock, length_baselineBytes, length_averageBytes, ceilDiv_eight, blockResidues_eq]
    rfl
  · obtain ⟨hpos, hmax⟩ := length_bvl_bounds v
    refine ⟨fun hv => ?_, fun k h2 h8 hlow hhigh => ?_, fun hv => ?_⟩
    · exact le_antisymm ((length_bvl_le_iff v (n := 1) le_rfl (by decide)).2 hv) hpos
    · have hle := (length_bvl_le_iff v (by omega) h8).2 hhigh
      have hlt := mt (length_bvl_le_iff v (n := k - 1) (by omega) (by omega)).1 (not_lt.2 hlow)
      omega
    · have hlt := mt (length_bvl_le_iff v (n := 8) (by decide) le_rfl).1 (not_lt.2 hv)
      omega

end Sys2Proof.Machine
end

section
/-! PROOFS. What `DD_NEXT` and `DD_SKIP` do when their checks pass (43_delta_decoder R302, R306, R307). -/

namespace Sys2Proof.Machine

@[simp] theorem u64_toNat (x : Word) : u64 x.toNat = x := by simp [u64]

theorem u64_toNat_add (x y : Word) : u64 (x.toNat + y.toNat) = x + y := by simp [u64, BitVec.ofNat_add]

/-! ## The checks -/

theorem ddNextCheck_eq_none (s : State) : ddNextCheck s = none ↔
    s.dd.state = .ready ∧ s.dd.ord ≠ s.dd.count ∧ checkIn s = none := by
  rw [ddNextCheck, Option.or_eq_none_iff, Option.or_eq_none_iff, checkReader_eq_none, require_eq_none, and_assoc]

theorem ddSkipCheck_eq_none (s : State) : ddSkipCheck s = none ↔
    s.dd.state = .ready ∧ s.dd.ord.toNat + s.args.a0.toNat ≤ s.dd.count.toNat ∧
      (s.args.a0 ≠ 0 → checkIn s = none) := by
  rw [ddSkipCheck, Option.or_eq_none_iff, Option.or_eq_none_iff, checkReader_eq_none, require_eq_none, and_assoc,
    ite_eq_left_iff]

/-! ## The outcomes -/

/-- The effect of a `DD_NEXT` that fetched the decoder `d` and the stream position `p` (R306). -/
def State.nextFrom (s : State) (d : DeltaDecoder) (p : Nat) : State :=
  { s with
    inPtr := u64 p
    dd := { d with off := d.off + 1, ord := d.ord + 1 }
    res := { s.res with r0 := d.buf.getD d.off.toNat 0, r1 := d.ord + 1 } }

/-- The effect of a `DD_SKIP` that reached the decoder `d` and the stream position `p` (R307). -/
def State.skippedTo (s : State) (d : DeltaDecoder) (p : Nat) : State :=
  { s with inPtr := u64 p, dd := d, res := { s.res with r1 := d.ord } }

section Outcome

variable {s : State} {d : DeltaDecoder} {p : Nat}

theorem concludeStream_ok {c : Check} {f : Unit → Except Err State} {u : State} (hc : c = none) (h : f () = .ok u) :
    s.concludeStream c f = .next u.complete := by
  simp only [State.concludeStream, hc, h]

theorem concludeStream_error {c : Check} {f : Unit → Except Err State} {e : Err} (hc : c = none)
    (h : f () = .error e) : s.concludeStream c f = .next (s.poison.completeErr e.1 e.2) := by
  simp only [State.concludeStream, hc, h]

theorem exec_ddNext_of_fetch (hc : ddNextCheck s = none) (h : ddFetch s = .ok (d, p)) :
    exec .ddNext s = .next (s.nextFrom d p).complete := by
  rw [exec, execDdNext]
  exact concludeStream_ok hc (by simp only [ddNextEffect, h]; rfl)

theorem exec_ddNext_of_error {e : Err} (hc : ddNextCheck s = none) (h : ddFetch s = .error e) :
    exec .ddNext s = .next (s.poison.completeErr e.1 e.2) := by
  rw [exec, execDdNext]
  exact concludeStream_error hc (by simp only [ddNextEffect, h])

theorem exec_ddSkip_of_zero (hc : ddSkipCheck s = none) (h0 : s.args.a0 = 0) :
    exec .ddSkip s = .next ({ s with res := { s.res with r1 := s.dd.ord } }).complete := by
  rw [exec, execDdSkip]
  exact concludeStream_ok hc (if_pos h0)

theorem exec_ddSkip_of_skipTo (hc : ddSkipCheck s = none) (h0 : s.args.a0 ≠ 0)
    (h : ddSkipTo s.dd s.args.a0.toNat s.mem s.inEnd.toNat s.inPtr.toNat = .ok (d, p)) :
    exec .ddSkip s = .next (s.skippedTo d p).complete := by
  rw [exec, execDdSkip]
  exact concludeStream_ok hc (by simp only [ddSkipEffect, h0, if_false, h]; rfl)

end Outcome

/-! ## The block a value is returned from (R302, R306) -/

section Refill

variable {d d' : DeltaDecoder} {consumed n fin p p' : Nat} {m : Memory}

theorem ddRefill_eq_ok_iff : ddRefill d consumed m fin p = .ok (d', p') ↔
    ∃ vs, refillBlock d.mono (min d.blockSize.toNat (d.count.toNat - consumed)) m fin p = .ok (vs, p') ∧
      d' = { d with buf := vs ++ d.buf.drop vs.length, off := 0 } := by
  rw [ddRefill]
  cases refillBlock d.mono (min d.blockSize.toNat (d.count.toNat - consumed)) m fin p with
  | error e => simp
  | ok r => simp [Prod.ext_iff, eq_comm, and_comm]

theorem ddFetch_of_buffered {s : State} (h : s.dd.off ≠ s.dd.blockSize) : ddFetch s = .ok (s.dd, s.inPtr.toNat) :=
  if_neg h

theorem ddFetch_of_empty {s : State} (h : s.dd.off = s.dd.blockSize) :
    ddFetch s = ddRefill s.dd s.dd.ord.toNat s.mem s.inEnd.toNat s.inPtr.toNat := if_pos h

/-! ## Where a skip ends (R307) -/

theorem ddSkipTo_of_le (hn : n ≤ d.blockSize.toNat - d.off.toNat) :
    ddSkipTo d n m fin p = .ok ({ d with off := u64 (d.off.toNat + n), ord := u64 (d.ord.toNat + n) }, p) := by
  simp [ddSkipTo, Nat.min_eq_left hn, skipBlocks]

/-- A skip of the values still buffered, of whole blocks and of a remainder. -/
theorem ddSkipTo_eq_ok_iff {blocks rem : Nat}
    (hn : n = d.blockSize.toNat - d.off.toNat + (blocks * d.blockSize.toNat + rem)) (hrem : rem < d.blockSize.toNat)
    (hoff : d.off.toNat ≤ d.blockSize.toNat) :
    ddSkipTo d n m fin p = .ok (d', p') ↔
      ∃ p1, skipBlocks d.mono d.blockSize.toNat m fin blocks p = .ok p1 ∧
        (rem = 0 ∧ d' = { d with off := d.blockSize, ord := u64 (d.ord.toNat + n) } ∧ p' = p1 ∨
         rem ≠ 0 ∧ ∃ vs, refillBlock d.mono (min d.blockSize.toNat (d.count.toNat - (d.ord.toNat + n - rem))) m fin p1 =
            .ok (vs, p') ∧
          d' = { d with buf := vs ++ d.buf.drop vs.length, off := u64 rem, ord := u64 (d.ord.toNat + n) }) := by
  have hmin : min n (d.blockSize.toNat - d.off.toNat) = d.blockSize.toNat - d.off.toNat := by omega
  have hrest : n - (d.blockSize.toNat - d.off.toNat) = blocks * d.blockSize.toNat + rem := by omega
  obtain ⟨hdiv, hmod⟩ := mul_add_div_mod blocks hrem
  have hord : d.ord.toNat + (d.blockSize.toNat - d.off.toNat) + blocks * d.blockSize.toNat = d.ord.toNat + n - rem := by
    omega
  have hall : d.ord.toNat + n - rem + rem = d.ord.toNat + n := by omega
  have hfull : u64 (d.off.toNat + (d.blockSize.toNat - d.off.toNat)) = d.blockSize := by
    rw [Nat.add_sub_cancel' hoff, u64_toNat]
  rw [ddSkipTo, hmin, hrest, hdiv, hmod, hord, hall, hfull]
  cases skipBlocks d.mono d.blockSize.toNat m fin blocks p with
  | error e => simp
  | ok p1 =>
    simp only [Except.ok.injEq, exists_eq_left']
    split
    · next h0 =>
      rw [h0]
      simp [eq_comm]
    · next h0 =>
      simp only [ddRefill]
      cases refillBlock d.mono (min d.blockSize.toNat (d.count.toNat - (d.ord.toNat + n - rem))) m fin p1 with
      | error e => simp [h0]
      | ok r => simp [h0, Prod.ext_iff, eq_comm, and_comm]

end Refill

/-- Settles O35: the block is fetched from the buffer, or it is the one read. -/
theorem ddNextReturnsValue : Obligations.DdNextReturnsValue := by
  intro s hr hord hptr hend
  have hc : ddNextCheck s = none := (ddNextCheck_eq_none s).2 ⟨hr, hord, (checkIn_eq_none s).2 ⟨hptr, hend⟩⟩
  refine ⟨fun hbuf => ?_, fun hempty vs p hvs => ?_⟩
  · rw [exec_ddNext_of_fetch hc (ddFetch_of_buffered hbuf), State.nextFrom, u64_toNat]
  · have hfetch := (ddFetch_of_empty hempty).trans (ddRefill_eq_ok_iff.2 ⟨vs, hvs, rfl⟩)
    rw [exec_ddNext_of_fetch hc hfetch]
    rfl

/-- Settles O36: the three steps of a skip, by where it ends. -/
theorem ddSkipMoves : Obligations.DdSkipMoves := by
  intro s hr hinv hcount
  refine ⟨fun h0 => exec_ddSkip_of_zero ((ddSkipCheck_eq_none s).2 ⟨hr, hcount, fun h => absurd h0 h⟩) h0,
    fun h0 hptr hend => ?_⟩
  have hc := (ddSkipCheck_eq_none s).2 ⟨hr, hcount, fun _ => (checkIn_eq_none s).2 ⟨hptr, hend⟩⟩
  obtain ⟨hsize, -, -, hoff, -⟩ := (ddInv_of_ready hr).1 hinv
  have hpos := (legalBlockSize_bounds hsize).1
  intro b left
  refine ⟨fun hle => ?_, fun hlt p1 hp1 => ?_⟩
  · rw [exec_ddSkip_of_skipTo hc h0 (ddSkipTo_of_le hle), State.skippedTo, u64_toNat, u64_toNat_add, u64_toNat_add]
  · intro rem
    have hn : s.args.a0.toNat = left + ((s.args.a0.toNat - left) / b * b + rem) := by
      rw [Nat.div_add_mod']
      omega
    have hrem : rem < b := Nat.mod_lt _ (by omega)
    refine ⟨fun hzero => ?_, fun hne vs p2 hvs => ?_⟩
    · have hto := (ddSkipTo_eq_ok_iff hn hrem hoff).2 ⟨p1, hp1, .inl ⟨hzero, rfl, rfl⟩⟩
      rw [exec_ddSkip_of_skipTo hc h0 hto, State.skippedTo, u64_toNat_add]
    · have hto := (ddSkipTo_eq_ok_iff hn hrem hoff).2 ⟨p1, hp1, .inr ⟨hne, vs, hvs, rfl⟩⟩
      rw [exec_ddSkip_of_skipTo hc h0 hto, State.skippedTo, u64_toNat_add]

end Sys2Proof.Machine
end

section
/-! PROOFS. What the errors of the delta decoder do (43_delta_decoder R301, R302): an error of the stream poisons it, an
error of a check does not, and a poisoned decoder waits for an initialisation or a unit reset. -/

namespace Sys2Proof.Machine

/-! ## The errors of a check -/

/-- The errors that reject a command of a reader, none of which an input stream raises (43 section 2, R306, R307). -/
def readerRejections : List ErrCode := [.notInitialized, .indexOutOfRange, .accessFault]

/-- The check raises no error but those. -/
def ReaderRejects (c : Check) : Prop := ∀ e, c = some e → e.1 ∈ readerRejections

theorem readerRejects_require {e : ErrCode} (h : e ∈ readerRejections) (p : Prop) [Decidable p] (v : Word) :
    ReaderRejects (require p e v) := fun e' he => by
  obtain ⟨-, rfl, -⟩ := (require_eq_some p e e'.1 v e'.2).1 he
  exact h

theorem ReaderRejects.or {c c' : Check} (h : ReaderRejects c) (h' : ReaderRejects c') : ReaderRejects (c.or c') :=
  fun e he => (Option.or_eq_some_iff.1 he).elim (h e) fun he => h' e he.2

theorem checkReader_rejects (s : State) : ReaderRejects (checkReader s) := readerRejects_require (by decide) _ _

theorem checkIn_rejects (s : State) : ReaderRejects (checkIn s) := readerRejects_require (by decide) _ _

theorem ddNextCheck_rejects (s : State) : ReaderRejects (ddNextCheck s) :=
  ((checkReader_rejects s).or (readerRejects_require (by decide) _ _)).or (checkIn_rejects s)

theorem ddSkipCheck_rejects (s : State) : ReaderRejects (ddSkipCheck s) := by
  refine ((checkReader_rejects s).or (readerRejects_require (by decide) _ _)).or ?_
  split
  · exact nofun
  · exact checkIn_rejects s

/-- The ways a command that reads the stream ends (60_exceptions R531): rejected by a check, poisoned by the stream, or
without error. -/
theorem exec_reader_cases {s t : State} {i : Instr} (hi : i ∈ [Instr.ddNext, .ddSkip]) (h : exec i s = .next t) :
    (∃ e v, e ∈ readerRejections ∧ t = s.completeErr e v) ∨ (∃ e v, t = s.poison.completeErr e v) ∨
      t.status = statusComplete s.status := by
  simp only [List.mem_cons, List.not_mem_nil, or_false] at hi
  obtain rfl | rfl := hi
  · rw [exec, execDdNext] at h
    obtain ⟨e, he, rfl⟩ | ⟨-, e, -, rfl⟩ | ⟨-, u, hu, rfl⟩ := concludeStream_cases _ _ _ _ h
    · exact .inl ⟨_, _, ddNextCheck_rejects s e he, rfl⟩
    · exact .inr (.inl ⟨_, _, rfl⟩)
    · obtain ⟨d, p, -, rfl⟩ := ddNextEffect_ok hu
      exact .inr (.inr rfl)
  · rw [exec, execDdSkip] at h
    obtain ⟨e, he, rfl⟩ | ⟨-, e, -, rfl⟩ | ⟨-, u, hu, rfl⟩ := concludeStream_cases _ _ _ _ h
    · exact .inl ⟨_, _, ddSkipCheck_rejects s e he, rfl⟩
    · exact .inr (.inl ⟨_, _, rfl⟩)
    · obtain ⟨-, rfl⟩ | ⟨-, d, p, -, rfl⟩ := ddSkipEffect_ok hu
      · exact .inr (.inr rfl)
      · exact .inr (.inr rfl)

/-- An error with a code of the stream leaves the decoder poisoned. -/
theorem exec_reader_poisons {s t : State} {i : Instr} (hi : i ∈ [Instr.ddNext, .ddSkip]) (hs : s.status.err = false)
    (h : exec i s = .next t) (ht : t.status.err = true) (hcode : t.status.errCode = 1 ∨ t.status.errCode = 3) :
    t.dd.state = .poisoned := by
  obtain ⟨e, v, he, rfl⟩ | ⟨e, v, rfl⟩ | hok := exec_reader_cases hi h
  · have hreject : ∀ e ∈ readerRejections, ¬ (errCodeNumber e = 1 ∨ errCodeNumber e = 3) := by decide
    exact absurd hcode (hreject e he)
  · rfl
  · rw [hok, statusComplete_err, hs] at ht
    cases ht

/-! ## The errors of a token (R302) -/

theorem streamToken_of_end {m : Memory} {fin p : Nat} (hp : p = fin) :
    streamToken m fin p = .error (.prematureEndOfStream, u64 p) := by
  rw [streamToken, streamByte, if_pos hp]

theorem streamToken_of_wide {m : Memory} {fin p : Nat} (hp : p ≠ fin) (h : 129 < (readByte m p).toNat) :
    streamToken m fin p = .error (.invalidBitWidth, u64 ((readByte m p).toNat / 2)) := by
  rw [streamToken, streamByte, if_neg hp]
  exact if_pos (by omega)

/-- A token in error ends the command before anything else is read. -/
theorem exec_ddNext_of_token_error {s : State} {e : Err} (hc : ddNextCheck s = none) (h : s.dd.off = s.dd.blockSize)
    (he : streamToken s.mem s.inEnd.toNat s.inPtr.toNat = .error e) :
    exec .ddNext s = .next (s.poison.completeErr e.1 e.2) :=
  exec_ddNext_of_error hc (by rw [ddFetch_of_empty h, ddRefill, refillBlock, he])

/-! ## The poisoned decoder -/

theorem checkReader_of_poisoned {s : State} (h : s.dd.state = .poisoned) :
    checkReader s = some (.notInitialized, 7) := by
  rw [checkReader, h, require_neg (by decide)]
  rfl

theorem exec_reader_of_poisoned {s : State} (h : s.dd.state = .poisoned) :
    ∀ i ∈ [Instr.ddNext, .ddSkip], exec i s = .next (s.completeErr .notInitialized 7) := by
  have hcheck := checkReader_of_poisoned h
  simp only [List.forall_mem_cons]
  exact ⟨ddNext_rejected (by rw [ddNextCheck, hcheck, Option.some_or, Option.some_or]),
    ddSkip_rejected (by rw [ddSkipCheck, hcheck, Option.some_or, Option.some_or]), nofun⟩

theorem EffectFrame.dd {k : CommandUnit} {s u : State} (h : EffectFrame k s u) (hd : k ≠ .deltaDecoder)
    (hall : k ≠ .everyContext) : u.dd = s.dd := by
  cases k
  case deltaDecoder => exact absurd rfl hd
  case everyContext => exact absurd rfl hall
  all_goals rw [h]

theorem eq_unitReset_of_everyContext {i : Instr} (h : unitOf i = .everyContext) : i = .unitReset := by
  cases i
  case unitReset => rfl
  all_goals cases h

/-- Only a command of its unit or the reset of units changes the decoder. -/
theorem exec_dd_of_ne {s t : State} {i : Instr} (hd : unitOf i ≠ .deltaDecoder) (hi : i ≠ .unitReset)
    (h : exec i s = .next t) : t.dd = s.dd := by
  obtain ⟨u, hu, -, rfl⟩ | ⟨e, v, rfl⟩ | ⟨hunit, -⟩ := exec_cases i s t h
  · exact hu.dd hd (mt eq_unitReset_of_everyContext hi)
  · rfl
  · exact absurd hunit hd

theorem exec_leaves_poisoned {s t : State} {i : Instr} (hs : s.dd.state = .poisoned) (h : exec i s = .next t)
    (ht : t.dd.state ≠ .poisoned) : i = .ddInit ∨ i = .ddInitMono ∨ i = .unitReset := by
  by_cases hreset : i = .unitReset
  · exact .inr (.inr hreset)
  by_cases hunit : unitOf i = .deltaDecoder
  · have hreader : i ∉ [Instr.ddNext, .ddSkip] := fun hi => by
      obtain rfl := Host.Outcome.next.inj (h.symm.trans (exec_reader_of_poisoned hs i hi))
      exact ht hs
    cases i
    case ddInit => exact .inl rfl
    case ddInitMono => exact .inr (.inl rfl)
    case ddNext | ddSkip => simp at hreader
    all_goals cases hunit
  · exact absurd (by rw [exec_dd_of_ne hunit hreset h, hs]) ht

/-- Settles O37: the stream errors through the token, the rest by how a command of the decoder ends. -/
theorem ddStreamErrorsPoison : Obligations.DdStreamErrorsPoison := by
  refine ⟨fun s t hr hord hempty hptr hend h => ?_,
    fun s t i hi hs h ht hcode => exec_reader_poisons hi hs h ht hcode,
    fun s h => exec_reader_of_poisoned h, fun s t i hs h ht => exec_leaves_poisoned hs h ht⟩
  have hc : ddNextCheck s = none := (ddNextCheck_eq_none s).2 ⟨hr, hord, (checkIn_eq_none s).2 ⟨hptr, hend⟩⟩
  refine ⟨fun hfin => ?_, fun hfin hwide => ?_⟩
  · have herror := exec_ddNext_of_token_error hc hempty (streamToken_of_end (congrArg BitVec.toNat hfin))
    obtain rfl := Host.Outcome.next.inj (h.symm.trans herror)
    exact ⟨rfl, u64_toNat _, rfl, rfl, rfl⟩
  · have hne : s.inPtr.toNat ≠ s.inEnd.toNat := fun he => hfin (BitVec.eq_of_toNat_eq he)
    have herror := exec_ddNext_of_token_error hc hempty (streamToken_of_wide hne hwide)
    obtain rfl := Host.Outcome.next.inj (h.symm.trans herror)
    have hbyte := (readByte s.mem s.inPtr.toNat).isLt
    exact ⟨rfl, Nat.mod_eq_of_lt (by omega), rfl, rfl, rfl⟩

end Sys2Proof.Machine
end

section
/-! PROOFS. Skipping a block takes the bytes that reading it takes (43_delta_decoder R302, R303): an elementary step of
the reader that does not fail stays within the stream. -/

namespace Sys2Proof.Machine

section Within

variable {m : Memory} {fin p p' : Nat}

theorem streamByte_within {b : Nat} (h : streamByte m fin p = .ok (b, p')) (hp : p ≤ fin) : p' = p + 1 ∧ p' ≤ fin := by
  rw [streamByte] at h
  split at h
  · cases h
  · cases h
    omega

theorem streamBytes_within {n acc v : Nat} (h : streamBytes m fin n acc p = .ok (v, p')) (hp : p ≤ fin) :
    p' = p + n ∧ p' ≤ fin := by
  induction n generalizing acc p with
  | zero =>
    cases h
    exact ⟨rfl, hp⟩
  | succ n ih =>
    rw [streamBytes] at h
    split at h
    · cases h
    · next b q hb =>
      obtain ⟨rfl, hq⟩ := streamByte_within hb hp
      obtain ⟨rfl, hle⟩ := ih h hq
      exact ⟨by omega, hle⟩

theorem streamBvlGroups_within {k sh acc v : Nat} (h : streamBvlGroups m fin k sh acc p = .ok (v, p'))
    (hp : p ≤ fin) : p' ≤ fin := by
  induction k generalizing sh acc p with
  | zero =>
    rw [streamBvlGroups] at h
    split at h
    · cases h
    · next hb =>
      cases h
      exact (streamByte_within hb hp).2
  | succ k ih =>
    rw [streamBvlGroups] at h
    split at h
    · cases h
    · next b q hb =>
      have hq := (streamByte_within hb hp).2
      split at h
      · cases h
        exact hq
      · exact ih h hq

theorem streamToken_within {bits z : Nat} (h : streamToken m fin p = .ok (bits, z, p')) (hp : p ≤ fin) : p' ≤ fin := by
  rw [streamToken] at h
  split at h
  · cases h
  · next hb =>
    split at h
    · cases h
    · cases h
      exact (streamByte_within hb hp).2

theorem streamBaseline_within {z : Nat} {base : Word} (h : streamBaseline m fin z p = .ok (base, p')) (hp : p ≤ fin) :
    p' ≤ fin := by
  rw [streamBaseline] at h
  split at h
  · cases h
    exact hp
  · rw [streamBvl] at h
    cases hg : streamBvlGroups m fin 8 0 0 p with
    | error e => simp [hg] at h
    | ok r =>
      simp only [hg, Except.ok.injEq, Prod.mk.injEq] at h
      exact h.2 ▸ streamBvlGroups_within hg hp

/-- The parts of a block that is read (R302). -/
theorem refillBlock_parts {mono : Bool} {c : Nat} {vs : List Word} (h : refillBlock mono c m fin p = .ok (vs, p')) :
    ∃ bits z p1 base p2 avg p3 bytes, streamToken m fin p = .ok (bits, z, p1) ∧
      streamBaseline m fin z p1 = .ok (base, p2) ∧
      streamBytes m fin (if mono then 4 else 0) 0 p2 = .ok (avg, p3) ∧
      streamBytes m fin (ceilDiv (c * bits) 8) 0 p3 = .ok (bytes, p') := by
  simp only [refillBlock] at h
  repeat' split at h
  all_goals cases h
  exact ⟨_, _, _, _, _, _, _, _, ‹_›, ‹_›, ‹_›, ‹_›⟩

theorem refillBlock_within {mono : Bool} {c : Nat} {vs : List Word} (h : refillBlock mono c m fin p = .ok (vs, p'))
    (hp : p ≤ fin) : p' ≤ fin := by
  obtain ⟨bits, z, p1, base, p2, avg, p3, bytes, htoken, hbase, havg, hres⟩ := refillBlock_parts h
  have h2 := streamBaseline_within hbase (streamToken_within htoken hp)
  exact (streamBytes_within hres (streamBytes_within havg h2).2).2

/-- A block that can be read can be skipped, to the same position (R303). -/
theorem skipBlock_of_refillBlock {mono : Bool} {c : Nat} {vs : List Word}
    (h : refillBlock mono c m fin p = .ok (vs, p')) (hp : p ≤ fin) : skipBlock mono c m fin p = .ok p' := by
  obtain ⟨bits, z, p1, base, p2, avg, p3, bytes, htoken, hbase, havg, hres⟩ := refillBlock_parts h
  have h2 := streamBaseline_within hbase (streamToken_within htoken hp)
  obtain ⟨rfl, h3⟩ := streamBytes_within havg h2
  obtain ⟨rfl, h4⟩ := streamBytes_within hres h3
  simp only [skipBlock, htoken, hbase, streamSkip_of_le h3, streamSkip_of_le h4]

end Within

end Sys2Proof.Machine
end

section
/-! PROOFS. Skipping is reading and discarding (43_delta_decoder R308). Decoders that a skip and reads lead to may differ
in their buffers, but only at places no later command returns a value from: what is left to see is the same. -/

namespace Sys2Proof.Machine

/-! ## What later commands see of a decoder -/

/-- How many values of the buffered block are still to be returned: those from the offset to the end of the block, and
none past the declared count. -/
def DeltaDecoder.ahead (d : DeltaDecoder) : Nat :=
  min (d.blockSize.toNat - d.off.toNat) (d.count.toNat - d.ord.toNat)

/-- The decoder with only those values in its buffer that are still to be returned. -/
def DeltaDecoder.visible (d : DeltaDecoder) : DeltaDecoder := { d with buf := (d.buf.drop d.off.toNat).take d.ahead }

theorem visible_of_empty {d : DeltaDecoder} (h : d.off = d.blockSize) : d.visible = { d with buf := [] } := by
  simp [DeltaDecoder.visible, DeltaDecoder.ahead, h]

/-- What stands in the buffer past the values of its block is not seen. -/
theorem visible_append {d : DeltaDecoder} {vs : List Word}
    (h : d.off.toNat ≤ vs.length ∧ d.ahead ≤ vs.length - d.off.toNat) (xs : List Word) :
    ({ d with buf := vs ++ xs } : DeltaDecoder).visible = ({ d with buf := vs } : DeltaDecoder).visible := by
  simp only [DeltaDecoder.visible, List.drop_append_of_le_length h.1]
  rw [List.take_append_of_le_length (by rw [List.length_drop]; exact h.2)]
  rfl

theorem visible_append_congr {d : DeltaDecoder} {vs : List Word}
    (h : d.off.toNat ≤ vs.length ∧ d.ahead ≤ vs.length - d.off.toNat) (xs ys : List Word) :
    ({ d with buf := vs ++ xs } : DeltaDecoder).visible = ({ d with buf := vs ++ ys } : DeltaDecoder).visible :=
  (visible_append h xs).trans (visible_append h ys).symm

/-- The value a `DD_NEXT` returns is seen. -/
theorem getD_visible {d : DeltaDecoder} (hoff : d.off.toNat < d.blockSize.toNat)
    (hord : d.ord.toNat < d.count.toNat) : d.visible.buf.getD 0 0 = d.buf.getD d.off.toNat 0 := by
  have hahead : 0 < d.ahead := by
    unfold DeltaDecoder.ahead
    omega
  simp [DeltaDecoder.visible, List.getD_eq_getElem?_getD, hahead]

theorem eq_of_visible_eq {d e : DeltaDecoder} (h : e.visible = d.visible) : ∃ buf, e = { d with buf := buf } := by
  obtain ⟨hstate, hmono, hsize, hcount, hord, hoff, -⟩ := DeltaDecoder.mk.inj h
  exact ⟨e.buf, by rw [← hstate, ← hmono, ← hsize, ← hcount, ← hord, ← hoff]⟩

/-- Decoders that look the same fetch decoders that look the same (R306). -/
theorem ddFetch_of_visible_eq {s t : State} {d : DeltaDecoder} {p : Nat} (hv : t.dd.visible = s.dd.visible)
    (hmem : t.mem = s.mem) (hend : t.inEnd = s.inEnd) (hptr : t.inPtr = s.inPtr) (h : ddFetch s = .ok (d, p)) :
    ∃ d', ddFetch t = .ok (d', p) ∧ d'.visible = d.visible := by
  obtain ⟨buf, ht⟩ := eq_of_visible_eq hv
  by_cases he : s.dd.off = s.dd.blockSize
  · obtain ⟨vs, hvs, rfl⟩ := ddRefill_eq_ok_iff.1 ((ddFetch_of_empty he).symm.trans h)
    refine ⟨{ t.dd with buf := vs ++ t.dd.buf.drop vs.length, off := 0 }, ?_, ?_⟩
    · rw [ddFetch_of_empty (by rw [ht]; exact he), hmem, hend, hptr, ddRefill_eq_ok_iff]
      exact ⟨vs, by rw [ht]; exact hvs, rfl⟩
    · rw [ht]
      exact visible_append_congr (d := { s.dd with off := 0 }) ⟨Nat.zero_le _, (length_refillBlock hvs).ge⟩ _ _
  · obtain ⟨rfl, rfl⟩ := Prod.mk.inj (Except.ok.inj ((ddFetch_of_buffered he).symm.trans h))
    exact ⟨t.dd, by rw [ddFetch_of_buffered (by rw [ht]; exact he), hptr], hv⟩

/-! ## Reading one value and skipping the rest -/

section SkipTo

variable {d d' c' : DeltaDecoder} {n fin p p' q : Nat} {m : Memory}

/-- A skip that starts with a buffered value skips what reading that value leaves to skip. -/
theorem ddSkipTo_succ (hoff : d.off.toNat < d.blockSize.toNat) (hord : d.ord.toNat < d.count.toNat) :
    ddSkipTo d (n + 1) m fin p = ddSkipTo { d with off := d.off + 1, ord := d.ord + 1 } n m fin p := by
  have hoff1 := toNat_add_one_of_lt hoff d.blockSize.isLt
  have hord1 := toNat_add_one_of_lt hord d.count.isLt
  have hmin : min (n + 1) (d.blockSize.toNat - d.off.toNat) =
      min n (d.blockSize.toNat - (d.off.toNat + 1)) + 1 := by omega
  rw [ddSkipTo, ddSkipTo]
  dsimp only
  rw [hoff1, hord1, hmin, Nat.add_sub_add_right]
  generalize min n (d.blockSize.toNat - (d.off.toNat + 1)) = k
  rw [Nat.add_right_comm d.off.toNat 1 k, Nat.add_right_comm d.ord.toNat 1 k]
  rfl

/-- A skip from an empty buffer ends where the skip from the block read there ends. -/
theorem ddSkipTo_of_refill (hpos : 0 < d.blockSize.toNat) (he : d.off = d.blockSize) (hp : p ≤ fin)
    (hr : ddRefill d d.ord.toNat m fin p = .ok (d', p')) (hn0 : n ≠ 0) (hn : d.ord.toNat + n ≤ d.count.toNat)
    (h : ddSkipTo d' n m fin p' = .ok (c', q)) :
    ∃ c, ddSkipTo d n m fin p = .ok (c, q) ∧ c.visible = c'.visible := by
  obtain ⟨vs, hvs, rfl⟩ := ddRefill_eq_ok_iff.1 hr
  have hoff : d.off.toNat = d.blockSize.toNat := congrArg BitVec.toNat he
  obtain hlt | hle := lt_or_ge n d.blockSize.toNat
  · rw [ddSkipTo_of_le (by simpa using hlt.le)] at h
    obtain ⟨rfl, rfl⟩ := Prod.mk.inj (Except.ok.inj h)
    have hskip := (ddSkipTo_eq_ok_iff (d := d) (n := n) (blocks := 0) (by omega) hlt hoff.le).2
      ⟨p, rfl, .inr ⟨hn0, vs, by rwa [Nat.add_sub_cancel], rfl⟩⟩
    exact ⟨_, hskip, by simp⟩
  · have hrem := Nat.mod_lt (n - d.blockSize.toNat) hpos
    have hsplit := Nat.div_add_mod' (n - d.blockSize.toNat) d.blockSize.toNat
    generalize (n - d.blockSize.toNat) / d.blockSize.toNat = blocks at hsplit
    generalize (n - d.blockSize.toNat) % d.blockSize.toNat = rem at hsplit hrem
    have hn1 : n = d.blockSize.toNat - (0 : Word).toNat + (blocks * d.blockSize.toNat + rem) := by
      simp
      omega
    have hn2 : n = d.blockSize.toNat - d.off.toNat + ((blocks + 1) * d.blockSize.toNat + rem) := by
      rw [hoff, Nat.add_mul]
      omega
    obtain ⟨p1, hblocks, hend⟩ := (ddSkipTo_eq_ok_iff
      (d := { d with buf := vs ++ d.buf.drop vs.length, off := 0 }) hn1 hrem (Nat.zero_le _)).1 h
    have hskip : skipBlocks d.mono d.blockSize.toNat m fin (blocks + 1) p = .ok p1 := by
      rw [Nat.min_eq_left (by omega)] at hvs
      rw [skipBlocks, skipBlock_of_refillBlock hvs hp]
      exact hblocks
    obtain ⟨h0, rfl, rfl⟩ | ⟨h0, ws, hws, rfl⟩ := hend
    · refine ⟨_, (ddSkipTo_eq_ok_iff hn2 hrem hoff.le).2 ⟨_, hskip, .inl ⟨h0, rfl, rfl⟩⟩, ?_⟩
      rw [visible_of_empty rfl, visible_of_empty rfl]
    · refine ⟨_, (ddSkipTo_eq_ok_iff hn2 hrem hoff.le).2 ⟨_, hskip, .inr ⟨h0, ws, hws, rfl⟩⟩, ?_⟩
      have hlen := length_refillBlock hws
      have hrem64 : (u64 rem).toNat = rem := Nat.mod_eq_of_lt (hrem.trans d.blockSize.isLt)
      have hord64 : (u64 (d.ord.toNat + n)).toNat = d.ord.toNat + n := Nat.mod_eq_of_lt (hn.trans_lt d.count.isLt)
      refine visible_append_congr (d := { d with off := u64 rem, ord := u64 (d.ord.toNat + n) }) ?_ _ _
      simp only [DeltaDecoder.ahead, hrem64, hord64, hlen]
      omega

end SkipTo

/-! ## Commands one after the other -/

section Commands

variable {s t a : State} {n : Nat}

theorem exec_of_runOne {i : Instr} (h : runOne i s = some t) :
    exec i (s.accept (encode i)) = .next t ∧ t.status.err = false := by
  unfold runOne at h
  split at h
  · split at h
    · cases h
    · next u hu herr =>
      cases h
      exact ⟨hu, Bool.eq_false_of_not_eq_true herr⟩
  · cases h

/-- A `DD_NEXT` completes without error exactly where its checks pass and it fetches a value (R306). -/
theorem runOne_ddNext_eq_some_iff : runOne .ddNext s = some t ↔ ddNextCheck s = none ∧
    ∃ d p, ddFetch s = .ok (d, p) ∧ t = ((s.accept (encode .ddNext)).nextFrom d p).complete := by
  constructor
  · intro h
    obtain ⟨hexec, herr⟩ := exec_of_runOne h
    rw [exec, execDdNext] at hexec
    obtain ⟨e, -, rfl⟩ | ⟨-, e, -, rfl⟩ | ⟨hc, u, hu, rfl⟩ := concludeStream_cases _ _ _ _ hexec
    · cases herr
    · cases herr
    · obtain ⟨d, p, hd, rfl⟩ := ddNextEffect_ok hu
      exact ⟨hc, d, p, hd, rfl⟩
  · rintro ⟨hc, d, p, hd, rfl⟩
    exact runOne_of_exec (exec_ddNext_of_fetch hc hd) rfl

/-- What reading `n` values leaves as it was, and the count of values consumed. -/
structure ReadsOn (n : Nat) (s t : State) : Prop where
  inv : DdInv t.dd
  state : t.dd.state = s.dd.state
  cfg : t.cfg = s.cfg
  mem : t.mem = s.mem
  inEnd : t.inEnd = s.inEnd
  count : t.dd.count = s.dd.count
  ord : t.dd.ord.toNat = s.dd.ord.toNat + n

/-- The values read are within the declared count. -/
theorem ReadsOn.ord_le (h : ReadsOn n s t) (hr : s.dd.state = .ready) :
    s.dd.ord.toNat + n ≤ s.dd.count.toNat := by
  obtain ⟨-, -, hle, -⟩ := (ddInv_of_ready (h.state.trans hr)).1 h.inv
  rwa [h.ord, h.count] at hle

theorem ord_lt_count (hs : DdInv s.dd) (hc : ddNextCheck s = none) : s.dd.ord.toNat < s.dd.count.toNat := by
  obtain ⟨hr, hord, -⟩ := (ddNextCheck_eq_none s).1 hc
  obtain ⟨-, -, hle, -⟩ := (ddInv_of_ready hr).1 hs
  exact lt_of_le_of_ne hle fun he => hord (BitVec.eq_of_toNat_eq he)

theorem readsOn_of_ddNext (hs : DdInv s.dd) (h : runOne .ddNext s = some t) : ReadsOn 1 s t := by
  have hinv := exec_keeps_ddInv (s := s.accept _) hs (exec_of_runOne h).1
  obtain ⟨hc, d, p, hd, rfl⟩ := runOne_ddNext_eq_some_iff.1 h
  obtain ⟨hr, -, -⟩ := (ddNextCheck_eq_none s).1 hc
  obtain ⟨hdr, -, -, hord, hcount⟩ := ddFetch_ok hs hr hd
  refine ⟨hinv, hdr.trans hr.symm, rfl, rfl, rfl, hcount, ?_⟩
  show (d.ord + 1).toNat = _
  rw [hord, toNat_add_one_of_lt (ord_lt_count hs hc) s.dd.count.isLt]

theorem checkIn_of_nextTimes (hn : n ≠ 0) (h : nextTimes n s = some a) : checkIn s = none := by
  obtain ⟨n, rfl⟩ := Nat.exists_eq_succ_of_ne_zero hn
  obtain ⟨t, ht, -⟩ := Option.bind_eq_some_iff.1 h
  obtain ⟨-, -, hin⟩ := (ddNextCheck_eq_none s).1 (runOne_ddNext_eq_some_iff.1 ht).1
  exact hin

theorem readsOn_of_nextTimes (hs : DdInv s.dd) (h : nextTimes n s = some a) : ReadsOn n s a := by
  induction n generalizing s with
  | zero =>
    obtain rfl := Option.some.inj h
    exact ⟨hs, rfl, rfl, rfl, rfl, rfl, rfl⟩
  | succ n ih =>
    obtain ⟨t, ht, ha⟩ := Option.bind_eq_some_iff.1 h
    have hone := readsOn_of_ddNext hs ht
    have hrest := ih hone.inv ha
    exact ⟨hrest.inv, hrest.state.trans hone.state, hrest.cfg.trans hone.cfg, hrest.mem.trans hone.mem,
      hrest.inEnd.trans hone.inEnd, hrest.count.trans hone.count, by rw [hrest.ord, hone.ord]; omega⟩

theorem ddFetch_within {d : DeltaDecoder} {p : Nat} (hp : s.inPtr.toNat ≤ s.inEnd.toNat)
    (h : ddFetch s = .ok (d, p)) : p ≤ s.inEnd.toNat := by
  by_cases he : s.dd.off = s.dd.blockSize
  · obtain ⟨vs, hvs, -⟩ := ddRefill_eq_ok_iff.1 ((ddFetch_of_empty he).symm.trans h)
    exact refillBlock_within hvs hp
  · obtain ⟨-, rfl⟩ := Prod.mk.inj (Except.ok.inj ((ddFetch_of_buffered he).symm.trans h))
    exact hp

/-- Reading `n` values and skipping as many lead to the same stream position and to decoders that look the same. -/
theorem ddSkipTo_of_nextTimes (hs : DdInv s.dd) (h : nextTimes n s = some a) :
    ∃ c, ddSkipTo s.dd n s.mem s.inEnd.toNat s.inPtr.toNat = .ok (c, a.inPtr.toNat) ∧ c.visible = a.dd.visible := by
  induction n generalizing s with
  | zero =>
    obtain rfl := Option.some.inj h
    exact ⟨s.dd, by simp [ddSkipTo_of_le], rfl⟩
  | succ n ih =>
    obtain ⟨t, ht, ha⟩ := Option.bind_eq_some_iff.1 h
    have hall := readsOn_of_nextTimes hs h
    obtain ⟨c1, hskip1, hseen1⟩ := ih (readsOn_of_ddNext hs ht).inv ha
    obtain ⟨hc, d, p, hd, rfl⟩ := runOne_ddNext_eq_some_iff.1 ht
    obtain ⟨hr, -, hin⟩ := (ddNextCheck_eq_none s).1 hc
    obtain ⟨hptr, -⟩ := (checkIn_eq_none s).1 hin
    obtain ⟨-, -, hoff, hord, hcount⟩ := ddFetch_ok hs hr hd
    have hlt := ord_lt_count hs hc
    have hp : (u64 p).toNat = p := Nat.mod_eq_of_lt ((ddFetch_within hptr hd).trans_lt s.inEnd.isLt)
    have hfrom : ddSkipTo d (n + 1) s.mem s.inEnd.toNat p = .ok (c1, a.inPtr.toNat) := by
      rw [ddSkipTo_succ hoff (by rwa [hord, hcount]), ← hp]
      exact hskip1
    by_cases he : s.dd.off = s.dd.blockSize
    · obtain ⟨hsize, -⟩ := (ddInv_of_ready hr).1 hs
      have hpos := (legalBlockSize_bounds hsize).1
      obtain ⟨c, hskip, hseen⟩ := ddSkipTo_of_refill (by omega) he hptr ((ddFetch_of_empty he).symm.trans hd)
        (Nat.succ_ne_zero n) (hall.ord_le hr) hfrom
      exact ⟨c, hskip, hseen.trans hseen1⟩
    · obtain ⟨rfl, rfl⟩ := Prod.mk.inj (Except.ok.inj ((ddFetch_of_buffered he).symm.trans hd))
      exact ⟨c1, hfrom, hseen1⟩

/-- States that look the same to a `DD_NEXT` and agree in the stream return the same value (R306). -/
theorem runOne_ddNext_of_visible_eq {b : State} (hs : DdInv s.dd) (hv : t.dd.visible = s.dd.visible)
    (hcfg : t.cfg = s.cfg) (hmem : t.mem = s.mem) (hend : t.inEnd = s.inEnd) (hptr : t.inPtr = s.inPtr)
    (h : runOne .ddNext s = some b) : ∃ d, runOne .ddNext t = some d ∧ d.res.r0 = b.res.r0 ∧ d.res.r1 = b.res.r1 ∧
      d.dd.ord = b.dd.ord ∧ d.dd.off = b.dd.off ∧ d.inPtr = b.inPtr := by
  obtain ⟨hc, d, p, hd, rfl⟩ := runOne_ddNext_eq_some_iff.1 h
  obtain ⟨hr, hord, hin⟩ := (ddNextCheck_eq_none s).1 hc
  obtain ⟨-, -, hoff, hdord, hdcount⟩ := ddFetch_ok hs hr hd
  have hlt := ord_lt_count hs hc
  obtain ⟨e, he, hve⟩ := ddFetch_of_visible_eq hv hmem hend hptr hd
  have hct : ddNextCheck t = none := by
    obtain ⟨buf, ht⟩ := eq_of_visible_eq hv
    rw [ddNextCheck_eq_none, checkIn_eq_none, ht, hptr, hend, hcfg, ← checkIn_eq_none]
    exact ⟨hr, hord, hin⟩
  obtain ⟨buf, rfl⟩ := eq_of_visible_eq hve
  have hvalue : buf.getD d.off.toNat 0 = d.buf.getD d.off.toNat 0 := by
    rw [← hdord, ← hdcount] at hlt
    rw [← getD_visible hoff hlt, ← hve]
    exact (getD_visible (d := { d with buf := buf }) hoff hlt).symm
  exact ⟨_, runOne_ddNext_eq_some_iff.2 ⟨hct, _, p, he, rfl⟩, hvalue, rfl, rfl, rfl, rfl⟩

end Commands

/-- Settles O38: the skip leads to a decoder that looks like the one the reads lead to, so the next value is the same. -/
theorem skipIsReadAndDiscard : Obligations.SkipIsReadAndDiscard := by
  intro s a b hs h0 ha hb
  have hreads := readsOn_of_nextTimes hs ha
  obtain ⟨c, hskip, hseen⟩ := ddSkipTo_of_nextTimes hs ha
  obtain ⟨hr, -, -⟩ := (ddNextCheck_eq_none a).1 (runOne_ddNext_eq_some_iff.1 hb).1
  have hready : s.dd.state = .ready := hreads.state.symm.trans hr
  have hcheck : ddSkipCheck s = none := (ddSkipCheck_eq_none s).2
    ⟨hready, hreads.ord_le hready, fun h0 => checkIn_of_nextTimes (fun hn => h0 (BitVec.eq_of_toNat_eq hn)) ha⟩
  have hexec := exec_ddSkip_of_skipTo (s := s.accept (encode .ddSkip)) hcheck h0 hskip
  obtain ⟨d, hd, hresult⟩ := runOne_ddNext_of_visible_eq
    (t := ((s.accept (encode .ddSkip)).skippedTo c a.inPtr.toNat).complete)
    hreads.inv hseen hreads.cfg.symm hreads.mem.symm hreads.inEnd.symm (u64_toNat a.inPtr) hb
  have hord : c.ord = a.dd.ord := by
    obtain ⟨buf, rfl⟩ := eq_of_visible_eq hseen
    rfl
  exact ⟨_, d, runOne_of_exec hexec rfl, hd, hord, hresult⟩

end Sys2Proof.Machine
end

section
/-! PROOFS. What the growable append buffer's commands do (44_growable_buffer R341 to R351): `GB_ADD` appends or packs,
the reads and the iterator return values, and no append changes a value. -/

namespace Sys2Proof.Machine

/-! ## Packed blocks (R341, R342, R350) -/

theorem gbBlockValue_packPlain {vs : List Word} {o : Nat} (h : o < vs.length) :
    gbBlockValue false (packPlain vs) o = vs.getD o 0 := by
  have hres : (packPlain vs).res.getD o 0 = vs.getD o 0 - (packPlain vs).base := by
    simp [packPlain, List.getD_eq_getElem?_getD, h]
  rw [gbBlockValue, hres, if_neg Bool.false_ne_true, BitVec.add_comm, BitVec.sub_add_cancel]

theorem getD_res_packMono {vs : List Word} {o : Nat} (h : o < vs.length) : (packMono vs).res.getD o 0 =
    zz (vs.getD o 0 - (packMono vs).base - pred (packMono vs).avg o) := by
  rw [packMono, getD_monoResidues _ _ _ h, Nat.zero_add]

theorem gbBlockValue_packMono {vs : List Word} {o : Nat} (h : o < vs.length) :
    gbBlockValue true (packMono vs) o = vs.getD o 0 := by
  rw [gbBlockValue, getD_res_packMono h, unzz_zz, if_pos rfl, BitVec.add_comm, BitVec.add_comm (packMono vs).base,
    ← BitVec.add_assoc, BitVec.sub_add_cancel, BitVec.sub_add_cancel]

/-- The record an add packs gives back the pending values and the value added, plain or monotonic (R346). -/
theorem gbBlockValue_gbPack (g : GrowableBuffer) (v : Word) {o : Nat}
    (h : o < (g.pend.take (gbPending g) ++ [v]).length) :
    gbBlockValue g.mono (gbPack g v) o = (g.pend.take (gbPending g) ++ [v]).getD o 0 := by
  cases hmono : g.mono with
  | false =>
    rw [gbPack, hmono, if_neg Bool.false_ne_true]
    exact gbBlockValue_packPlain h
  | true =>
    rw [gbPack, hmono, if_pos rfl]
    exact gbBlockValue_packMono h

/-! ## The values of a buffer (R350) -/

theorem gbValue_of_packed {g : GrowableBuffer} {i : Nat} {b : GbBlock} (h : g.blk[i / g.pageSize.toNat]? = some b) :
    gbValue g i = gbBlockValue g.mono b (i % g.pageSize.toNat) := by
  rw [gbValue, h]

theorem gbValue_of_pending {g : GrowableBuffer} {i : Nat} (h : gbNblocks g ≤ i / g.pageSize.toNat) :
    gbValue g i = g.pend.getD (i % g.pageSize.toNat) 0 := by
  rw [gbValue, List.getElem?_eq_none h]

/-! ## Appending a value (R346, R351) -/

theorem gbAddContext_of_fills {g : GrowableBuffer} (v : Word) (h : gbFills g) :
    gbAddContext g v = { g with blk := g.blk ++ [gbPack g v], size := g.size + 1 } := if_pos h

theorem gbAddContext_of_not_fills {g : GrowableBuffer} (v : Word) (h : ¬ gbFills g) :
    gbAddContext g v = { g with pend := g.pend.set (gbPending g) v, size := g.size + 1 } := if_neg h

@[simp] theorem gbAddContext_size (g : GrowableBuffer) (v : Word) : (gbAddContext g v).size = g.size + 1 :=
  (apply_ite GrowableBuffer.size ..).trans (ite_self _)

/-- An append leaves the values of the blocks packed before it. -/
theorem gbValue_gbAddContext_of_packed {g : GrowableBuffer} (v : Word) {i : Nat}
    (h : i / g.pageSize.toNat < gbNblocks g) : gbValue (gbAddContext g v) i = gbValue g i := by
  have hblock := List.getElem?_eq_getElem h
  by_cases hfill : gbFills g
  · rw [gbAddContext_of_fills v hfill, gbValue_of_packed hblock]
    exact gbValue_of_packed ((List.getElem?_append_left h).trans hblock)
  · rw [gbAddContext_of_not_fills v hfill, gbValue_of_packed hblock]
    exact gbValue_of_packed hblock

/-- The values past the blocks packed before an append are the pending ones and the value added, whether the append
packs them or not. -/
theorem gbValue_gbAddContext_of_pending {g : GrowableBuffer} (v : Word) {i : Nat}
    (hblock : i / g.pageSize.toNat = gbNblocks g) (hroom : gbPending g < g.pend.length)
    (hi : i % g.pageSize.toNat ≤ gbPending g) :
    gbValue (gbAddContext g v) i = (g.pend.take (gbPending g) ++ [v]).getD (i % g.pageSize.toNat) 0 := by
  have hlt : i % g.pageSize.toNat < (g.pend.take (gbPending g) ++ [v]).length := by
    rw [List.length_append, List.length_take, List.length_singleton]
    omega
  by_cases hfill : gbFills g
  · rw [gbAddContext_of_fills v hfill, ← gbBlockValue_gbPack g v hlt]
    refine gbValue_of_packed ?_
    dsimp only
    rw [hblock]
    exact List.getElem?_concat_length
  · rw [gbAddContext_of_not_fills v hfill, gbValue_of_pending (by exact hblock.ge),
      List.set_eq_take_append_cons_drop, if_pos hroom, List.append_cons, List.getD_append _ _ _ _ hlt]

/-- The next index is that of the pending buffer's first free place. -/
theorem gbSize_div_mod {p : Params} {g : GrowableBuffer} (hr : g.state = .ready) (hg : GbInv p g) :
    g.size.toNat / g.pageSize.toNat = gbNblocks g ∧ g.size.toNat % g.pageSize.toNat = gbPending g := by
  obtain ⟨-, -, ⟨hlow, hhigh⟩, -⟩ := (gbInv_of_ready hr).1 hg
  have hdiv : g.size.toNat / g.pageSize.toNat = gbNblocks g :=
    Nat.div_eq_of_lt_le hlow (by rwa [Nat.succ_mul])
  refine ⟨hdiv, ?_⟩
  rw [gbPending, ← hdiv, Nat.mod_eq_sub_div_mul]

theorem gbPending_lt_length_pend {p : Params} {g : GrowableBuffer} (hr : g.state = .ready) (hg : GbInv p g) :
    gbPending g < g.pend.length := by
  obtain ⟨-, hpend, ⟨hlow, hhigh⟩, -⟩ := (gbInv_of_ready hr).1 hg
  rw [hpend, gbPending]
  omega

theorem gbValue_gbAddContext_size {p : Params} {g : GrowableBuffer} (v : Word) (hr : g.state = .ready)
    (hg : GbInv p g) : gbValue (gbAddContext g v) g.size.toNat = v := by
  obtain ⟨hdiv, hmod⟩ := gbSize_div_mod hr hg
  have hroom := gbPending_lt_length_pend hr hg
  have hlength : (g.pend.take (gbPending g)).length = gbPending g := by
    rw [List.length_take, Nat.min_eq_left hroom.le]
  rw [gbValue_gbAddContext_of_pending v hdiv hroom hmod.le, hmod, List.getD_append_right _ _ _ _ hlength.le, hlength,
    Nat.sub_self]
  rfl

theorem gbValue_gbAddContext_of_lt_size {p : Params} {g : GrowableBuffer} (v : Word) (hr : g.state = .ready)
    (hg : GbInv p g) {j : Nat} (hj : j < g.size.toNat) : gbValue (gbAddContext g v) j = gbValue g j := by
  obtain ⟨hdiv, hmod⟩ := gbSize_div_mod hr hg
  have hroom := gbPending_lt_length_pend hr hg
  have hle : j / g.pageSize.toNat ≤ gbNblocks g := hdiv ▸ Nat.div_le_div_right hj.le
  obtain hlt | heq := hle.lt_or_eq
  · exact gbValue_gbAddContext_of_packed v hlt
  · have hj' : j % g.pageSize.toNat < gbPending g := by
      have hjsplit := Nat.div_add_mod j g.pageSize.toNat
      have hsplit := Nat.div_add_mod g.size.toNat g.pageSize.toNat
      rw [heq] at hjsplit
      rw [hdiv, hmod] at hsplit
      omega
    rw [gbValue_gbAddContext_of_pending v heq hroom hj'.le, gbValue_of_pending heq.ge,
      List.getD_append _ _ _ _ (by rw [List.length_take]; omega), List.getD_eq_getElem?_getD,
      List.getElem?_take_of_lt hj', ← List.getD_eq_getElem?_getD]

/-! ## `GB_ADD` (R343, R346) -/

theorem checkGbCapacity_of_no_slot {p : Params} {g : GrowableBuffer} (b : GbBlock) (h : p.gbMaxBlocks ≤ gbNblocks g) :
    checkGbCapacity p g b = some (.capacityExceeded, u64 (gbNblocks g + 1)) := by
  rw [checkGbCapacity, require_neg (not_lt.2 h), Option.some_or]

theorem checkGbCapacity_of_no_room {p : Params} {g : GrowableBuffer} {b : GbBlock} (hslot : gbNblocks g < p.gbMaxBlocks)
    (h : p.gbStoreWords < gbUsed g + gbBlockWords g.pageSize.toNat b.bits) : checkGbCapacity p g b =
      some (.capacityExceeded, u64 (gbUsed g + gbBlockWords g.pageSize.toNat b.bits)) := by
  rw [checkGbCapacity, require_pos hslot, Option.none_or, require_neg (not_le.2 h)]

section Add

variable {s : State}

theorem gbAddCheck_of_fills (hr : s.gb.state = .ready) (h : gbFills s.gb) :
    gbAddCheck s = checkGbCapacity s.cfg s.gb (gbPack s.gb s.args.a0) := by
  rw [gbAddCheck, (checkGbReady_eq_none s).2 hr, Option.none_or, if_pos h]

theorem gbAddCheck_of_not_fills (hr : s.gb.state = .ready) (h : ¬ gbFills s.gb) : gbAddCheck s = none := by
  rw [gbAddCheck, (checkGbReady_eq_none s).2 hr, Option.none_or, if_neg h]

theorem exec_gbAdd_of_check (h : gbAddCheck s = none) : exec .gbAdd s = .next
    ({ s with gb := gbAddContext s.gb s.args.a0, res := { s.res with r0 := s.gb.size } }).complete := by
  rw [exec, execGbAdd, h, conclude_none]
  rfl

theorem exec_gbAdd_rejected {e : Err} (h : gbAddCheck s = some e) :
    exec .gbAdd s = .next (s.completeErr e.1 e.2) := by
  rw [exec, execGbAdd, h, conclude_some]

end Add

/-- Settles O39: an add that does not fill the block passes its checks; one that does passes or fails the check of the
slots and then that of the words. -/
theorem gbAddAppends : Obligations.GbAddAppends := by
  intro s hr
  refine ⟨fun hroom => ?_, fun hfill => ⟨fun hslot hwords => ?_, fun hslot => ?_, fun hslot hwords => ?_⟩⟩
  · have hroom : ¬ gbFills s.gb := hroom
    rw [exec_gbAdd_of_check (gbAddCheck_of_not_fills hr hroom), gbAddContext_of_not_fills _ hroom]
    rfl
  · have hcapacity := (checkGbCapacity_eq_none s.cfg s.gb (gbPack s.gb s.args.a0)).2 ⟨hslot, hwords⟩
    rw [exec_gbAdd_of_check ((gbAddCheck_of_fills hr hfill).trans hcapacity), gbAddContext_of_fills _ hfill]
    rfl
  · exact exec_gbAdd_rejected ((gbAddCheck_of_fills hr hfill).trans (checkGbCapacity_of_no_slot _ hslot))
  · exact exec_gbAdd_rejected ((gbAddCheck_of_fills hr hfill).trans (checkGbCapacity_of_no_room hslot hwords))

/-- An add that completes without error appends (R346). -/
theorem gb_of_exec_gbAdd {s t : State} (h : exec .gbAdd s = .next t) (herr : t.status.err = false) :
    t.gb = gbAddContext s.gb s.args.a0 := by
  rw [exec, execGbAdd] at h
  obtain ⟨-, rfl⟩ | ⟨e, -, rfl⟩ := conclude_cases _ _ _ _ h
  · rfl
  · cases herr

/-- Settles O41: a packed record by its parts and its values, and an append by the page its indices fall in. -/
theorem gbKeepsValues : Obligations.GbKeepsValues := by
  refine ⟨fun vs hne => ⟨?_, ?_⟩, fun vs o ho => ⟨gbBlockValue_packPlain ho, gbBlockValue_packMono ho⟩, ?_⟩
  · exact ⟨blockBase_isBaseline false hne, rfl, rfl, residueWidth_leastWidth _⟩
  · exact ⟨blockBase_isBaseline true hne, rfl, length_monoResidues .., fun i hi => getD_res_packMono hi,
      residueWidth_leastWidth _⟩
  · intro s t hr hg hsize _ h herr
    rw [gb_of_exec_gbAdd h herr, gbAddContext_size]
    exact ⟨toNat_add_one_of_lt (Nat.lt_succ_self _) hsize, gbValue_gbAddContext_size _ hr hg,
      fun j hj => gbValue_gbAddContext_of_lt_size _ hr hg hj⟩

/-! ## Reading and rejections (R347 to R349) -/

/-- The commands of an initialised buffer check that first. -/
theorem exec_gbCommand_eq_conclude (s : State) : ∀ i ∈ [Instr.gbAdd, .gbGet, .gbIterReset, .gbIterNext],
    ∃ c f, exec i s = s.conclude ((checkGbReady s).or c) f := by
  simp only [List.forall_mem_cons]
  exact ⟨⟨_, _, by rw [exec, execGbAdd, gbAddCheck]⟩, ⟨_, _, by rw [exec, execGbGet]⟩,
    ⟨none, _, by rw [exec, execGbIterReset, Option.or_none]⟩,
    ⟨none, _, by rw [exec, execGbIterNext, Option.or_none]⟩, nofun⟩

section Ready

variable {s : State}

theorem exec_gbGet_of_ready (hr : s.gb.state = .ready) : exec .gbGet s =
    s.conclude (require (s.args.a0.toNat < s.gb.size.toNat) .indexOutOfRange s.args.a0)
      (fun _ => s.setRes0 (gbValue s.gb s.args.a0.toNat)) := by
  rw [exec, execGbGet, (checkGbReady_eq_none s).2 hr, Option.none_or]

theorem exec_gbIterReset_of_ready (hr : s.gb.state = .ready) : exec .gbIterReset s =
    .next (({ s with gb := { s.gb with ipos := 0, iend := s.gb.size } }).setRes0 s.gb.size).complete := by
  rw [exec, execGbIterReset, (checkGbReady_eq_none s).2 hr, conclude_none]

theorem exec_gbIterNext_of_ready (hr : s.gb.state = .ready) : exec .gbIterNext s = .next (gbIterStep s).complete := by
  rw [exec, execGbIterNext, (checkGbReady_eq_none s).2 hr, conclude_none]

end Ready

/-- Settles O40: an initialised buffer's reads by their range checks, the iterator by where it stands. -/
theorem gbReads : Obligations.GbReads := by
  refine ⟨fun s hu i hi => ?_, fun s hr => ⟨fun hlt => ?_, fun hge => ?_, ?_, fun hlt => ?_, fun hge => ?_⟩⟩
  · obtain ⟨c, f, hexec⟩ := exec_gbCommand_eq_conclude s i hi
    have hcheck : checkGbReady s = some (.notInitialized, 0) := require_neg (by rw [hu]; decide) ..
    rw [hexec, hcheck, Option.some_or, conclude_some]
  · rw [exec_gbGet_of_ready hr, require_pos hlt, conclude_none]
    rfl
  · rw [exec_gbGet_of_ready hr, require_neg (not_lt.2 hge), conclude_some]
  · rw [exec_gbIterReset_of_ready hr]
    rfl
  · rw [exec_gbIterNext_of_ready hr, gbIterStep, if_pos hlt]
    rfl
  · rw [exec_gbIterNext_of_ready hr, gbIterStep, if_neg (not_lt.2 hge)]
    rfl

end Sys2Proof.Machine
end

section
/-! PROOFS. The values and the plans of the dynamic arrays, each said once (45_dynamic_array R381, R390, R391, R394,
R395): the width after a write, the word sum of planned pages, and what a page and a value of a written or rebuilt paged
array are. -/

namespace Sys2Proof.Machine

/-! ## Widths (45_dynamic_array R381) -/

theorem maxValue_lt_iff (v w : Nat) : maxValue w < v ↔ 2 ^ w ≤ v := by
  rw [← not_le, le_maxValue_iff, not_lt]

theorem widthAfter_eq (w v : Nat) : widthAfter w v = if v < 2 ^ w then w else bitlen v := by
  unfold widthAfter
  simp only [maxValue_lt_iff, ← not_lt, ite_not]

theorem lt_two_pow_widthAfter (w v : Nat) : v < 2 ^ widthAfter w v :=
  (le_maxValue_iff ..).1 (le_maxValue_widthAfter w v)

/-! ## Plans of pages (45_dynamic_array R390, R391) -/

theorem pgPageCount_eq (size sh : Nat) : pgPageCount size sh = (size + (2 ^ sh - 1)) / 2 ^ sh := by
  rw [pgPageCount, ceilDiv, Nat.add_sub_assoc Nat.one_le_two_pow]

/-- The word sum of `np` pages of `size` values, page `k` of width `ws k` (45_dynamic_array R390). -/
def pgPlanWords (size sh np : Nat) (ws : Nat → Nat) : Nat :=
  ((List.range np).map fun k => seqWords (pgPageLen size sh k) (ws k)).sum

/-- The word sum of a list of widths is the sum over the numbers of its pages. -/
theorem pgWords_eq_pgPlanWords {size sh np : Nat} {l : List Nat} {ws : Nat → Nat} (hlen : l.length = np)
    (h : ∀ k (hk : k < l.length), l[k] = ws k) : pgWords size sh l = pgPlanWords size sh np ws := by
  have hpages : l = (l.map fun w => (⟨w, []⟩ : PgPage)).map PgPage.w := by
    rw [List.map_map]
    exact (List.map_id l).symm
  rw [pgWords, hpages, pgWordsFrom_eq_sum, List.length_map, hlen]
  refine congrArg List.sum (List.map_congr_left fun k hk => ?_)
  have hk : k < l.length := hlen ▸ List.mem_range.1 hk
  simp [← h k hk, List.getD_eq_getElem?_getD, hk]

theorem pgWords_replicate (size sh np w : Nat) :
    pgWords size sh (List.replicate np w) = pgPlanWords size sh np fun _ => w :=
  pgWords_eq_pgPlanWords List.length_replicate fun _ _ => List.getElem_replicate ..

/-- The plan of a write that widens one page (45_dynamic_array R394). -/
theorem pgWords_set {size sh k b : Nat} {g : PagedArray} {ws : Nat → Nat}
    (h : ∀ j, j < pgNp g → ws j = if j = k then b else (pgPage g j).w) :
    pgWords size sh ((g.pages.map PgPage.w).set k b) = pgPlanWords size sh (pgNp g) ws := by
  have hlen : ((g.pages.map PgPage.w).set k b).length = pgNp g := by rw [List.length_set, List.length_map, pgNp]
  refine pgWords_eq_pgPlanWords hlen fun j hj => ?_
  have hj : j < g.pages.length := by rwa [hlen] at hj
  rw [h j hj, List.getElem_set, List.getElem_map, pgPage_eq_getElem hj]
  exact if_congr eq_comm rfl rfl

/-- The width page `k` has in a rebuilt paged array: its own where the page is kept, else the declared one
(45_dynamic_array R395). -/
def pgRebuiltWidth (g : PagedArray) (k : Nat) : Nat := if k < pgNp g then (pgPage g k).w else g.bpv0.toNat

theorem pgRebuiltWidth_of_lt {g : PagedArray} {k : Nat} (hk : k < pgNp g) : pgRebuiltWidth g k = (pgPage g k).w :=
  if_pos hk

theorem pgRebuiltWidth_of_le {g : PagedArray} {k : Nat} (hk : pgNp g ≤ k) : pgRebuiltWidth g k = g.bpv0.toNat :=
  if_neg (not_lt.2 hk)

theorem length_pgRebuiltWidths (g : PagedArray) (np : Nat) : (pgRebuiltWidths g np).length = np := by
  simp only [pgRebuiltWidths, pgNp, List.length_append, List.length_take, List.length_map, List.length_replicate]
  omega

theorem getElem_pgRebuiltWidths {g : PagedArray} {np k : Nat} (hk : k < (pgRebuiltWidths g np).length) :
    (pgRebuiltWidths g np)[k] = pgRebuiltWidth g k := by
  have hlen := length_pgRebuiltWidths g np
  have hlen' : ((g.pages.map PgPage.w).take np).length = min np g.pages.length := by
    rw [List.length_take, List.length_map]
  simp only [pgRebuiltWidths]
  by_cases hkept : k < pgNp g
  · have hk' : k < g.pages.length := hkept
    rw [List.getElem_append_left (by omega), List.getElem_take, List.getElem_map,
      pgRebuiltWidth_of_lt hkept, pgPage_eq_getElem hk']
  · have hge : g.pages.length ≤ k := not_lt.1 hkept
    rw [List.getElem_append_right (by omega), List.getElem_replicate, pgRebuiltWidth_of_le hge]

/-- The plan of a rebuild (45_dynamic_array R395). -/
theorem pgWords_pgRebuiltWidths (g : PagedArray) (size sh np : Nat) :
    pgWords size sh (pgRebuiltWidths g np) = pgPlanWords size sh np (pgRebuiltWidth g) :=
  pgWords_eq_pgPlanWords (length_pgRebuiltWidths g np) fun _ hk => getElem_pgRebuiltWidths hk

/-! ## Pages and values of a paged array (45_dynamic_array R390) -/

theorem pgPage_of_le {g : PagedArray} {k : Nat} (hk : pgNp g ≤ k) : pgPage g k = ⟨1, []⟩ := by
  rw [pgPage, List.getD_eq_getElem?_getD, List.getElem?_eq_none hk, Option.getD_none]

theorem pgPage_of_replicate {g : PagedArray} {np k : Nat} {q : PgPage} (h : g.pages = List.replicate np q)
    (hk : k < np) : pgPage g k = q := by
  rw [pgPage_eq_getElem (by rwa [h, List.length_replicate])]
  simp only [h, List.getElem_replicate]

/-- Empty pages read 0 everywhere. -/
theorem pgValue_of_empty {g : PagedArray} {np w : Nat} (h : g.pages = List.replicate np ⟨w, []⟩) (i : Nat) :
    pgValue g i = 0 := by
  by_cases hk : pgPageOf g i < np
  · rw [pgValue, pgPage_of_replicate h hk]
    rfl
  · have hnp : pgNp g ≤ pgPageOf g i := by
      rw [pgNp, h, List.length_replicate]
      exact not_lt.1 hk
    rw [pgValue, pgPage_of_le hnp]
    rfl

/-- No value is listed past the size. -/
theorem pgValue_of_size_le {p : Params} {g : PagedArray} {j : Nat} (hr : g.state = .ready) (hg : PgInv p g)
    (hj : g.size.toNat ≤ j) : pgValue g j = 0 := by
  obtain ⟨-, -, -, -, -, hpages⟩ := hg hr
  by_cases hk : pgPageOf g j < pgNp g
  · obtain ⟨-, hcells, -⟩ := hpages _ hk
    refine cellGet_of_cellsOk _ _ hcells _ ((Nat.min_le_right ..).trans ?_)
    have hsplit := Nat.div_add_mod' j (2 ^ g.shift.toNat)
    unfold pgOffsetOf pgPageOf
    omega
  · rw [pgValue, pgPage_of_le (not_lt.1 hk)]
    rfl

/-! ## A write (45_dynamic_array R394) -/

@[simp] theorem pgNp_pgSetPages (g : PagedArray) (i : Nat) (v : Word) :
    pgNp { g with pages := pgSetPages g i v } = pgNp g := List.length_set ..

theorem pgPage_pgSetPages {g : PagedArray} {i : Nat} (v : Word) (hi : pgPageOf g i < pgNp g) (k : Nat) :
    pgPage { g with pages := pgSetPages g i v } k =
      if k = pgPageOf g i then
        ⟨pgWidthAfter g (pgPageOf g i) v.toNat, cellPut (pgPage g (pgPageOf g i)).val (pgOffsetOf g i) v⟩
      else pgPage g k := by
  have hi : pgPageOf g i < g.pages.length := hi
  rw [pgPage, pgSetPages, List.getD_eq_getElem?_getD]
  split
  · next h => rw [h, List.getElem?_set_self hi, Option.getD_some]
  · next h => rw [List.getElem?_set_ne (Ne.symm h), ← List.getD_eq_getElem?_getD, pgPage]

theorem pgPage_w_pgSetPages {g : PagedArray} {i : Nat} (v : Word) (hi : pgPageOf g i < pgNp g) (k : Nat) :
    (pgPage { g with pages := pgSetPages g i v } k).w =
      if k = pgPageOf g i then pgWidthAfter g (pgPageOf g i) v.toNat else (pgPage g k).w := by
  rw [pgPage_pgSetPages v hi, apply_ite PgPage.w]

/-- Two indices with the same page and the same offset are the same (45_dynamic_array R390). -/
theorem eq_of_pgPageOf_eq {g : PagedArray} {i j : Nat} (hk : pgPageOf g j = pgPageOf g i)
    (ho : pgOffsetOf g j = pgOffsetOf g i) : j = i := by
  rw [← Nat.div_add_mod j (2 ^ g.shift.toNat), ← Nat.div_add_mod i (2 ^ g.shift.toNat)]
  exact congrArg₂ (2 ^ g.shift.toNat * · + ·) hk ho

theorem pgValue_pgSetPages_other {g : PagedArray} {i j : Nat} (v : Word) (hi : pgPageOf g i < pgNp g) (hj : j ≠ i) :
    pgValue { g with pages := pgSetPages g i v } j = pgValue g j := by
  rw [pgValue, pgPage_pgSetPages v hi]
  split
  · next hk =>
    have hk : pgPageOf g j = pgPageOf g i := hk
    rw [pgValue, hk]
    exact cellGet_cellPut_other _ _ _ v fun ho => hj (eq_of_pgPageOf_eq hk ho)
  · rfl

theorem pgValue_pgSetPages_same {p : Params} {g : PagedArray} {i : Nat} (v : Word) (hr : g.state = .ready)
    (hg : PgInv p g) (hi : pgPageOf g i < pgNp g) : pgValue { g with pages := pgSetPages g i v } i = v := by
  obtain ⟨-, -, -, -, -, hpages⟩ := hg hr
  obtain ⟨-, ⟨hsorted, -⟩, -⟩ := hpages _ hi
  rw [pgValue, pgPage_pgSetPages v hi]
  exact (congrArg (fun q : PgPage => cellGet q.val _) (if_pos rfl)).trans (cellGet_cellPut_same _ _ v hsorted)

/-! ## A rebuild (45_dynamic_array R395) -/

theorem toNat_pgRebuilt_size {size : Nat} (g : PagedArray) (h : size < 2 ^ 64) :
    (pgRebuilt g size).size.toNat = size := by
  rw [pgRebuilt, BitVec.toNat_ofNat, Nat.mod_eq_of_lt h]

theorem length_pgCutPages (size sh k : Nat) (ps : List PgPage) : (pgCutPages size sh k ps).length = ps.length := by
  rw [pgCutPages_eq, List.length_mapIdx]

theorem getElem_pgCutPages {size sh k : Nat} {ps : List PgPage} (hk : k < (pgCutPages size sh 0 ps).length) :
    (pgCutPages size sh 0 ps)[k] =
      ⟨(ps[k]'(by rwa [length_pgCutPages] at hk)).w,
        cellBelow (ps[k]'(by rwa [length_pgCutPages] at hk)).val (pgPageLen size sh k)⟩ := by
  simp only [pgCutPages_eq, List.getElem_mapIdx, Nat.zero_add]

/-- A page of the rebuilt array: a kept one cut to its new length, or an empty one of the declared width. -/
theorem pgPage_pgRebuilt {g : PagedArray} {size k : Nat} (hk : k < pgPageCount size g.shift.toNat) :
    pgPage (pgRebuilt g size) k =
      ⟨pgRebuiltWidth g k, cellBelow (pgPage g k).val (pgPageLen size g.shift.toNat k)⟩ := by
  have hlen : (pgCutPages size g.shift.toNat 0 (g.pages.take (pgPageCount size g.shift.toNat))).length =
      min (pgPageCount size g.shift.toNat) g.pages.length := by
    rw [length_pgCutPages, List.length_take]
  rw [pgPage_eq_getElem (by rwa [length_pgRebuilt])]
  simp only [pgRebuilt]
  by_cases hkept : k < pgNp g
  · have hk' : k < g.pages.length := hkept
    rw [List.getElem_append_left (by omega), getElem_pgCutPages, List.getElem_take, pgRebuiltWidth_of_lt hkept,
      pgPage_eq_getElem hk']
  · have hge : g.pages.length ≤ k := not_lt.1 hkept
    rw [List.getElem_append_right (by omega), List.getElem_replicate, pgRebuiltWidth_of_le hge,
      pgPage_of_le hge]
    rfl

/-- A rebuild changes no value below the new size. -/
theorem pgValue_pgRebuilt {g : PagedArray} {size j : Nat} (hsize : size < 2 ^ 64) (hj : j < size) :
    pgValue (pgRebuilt g size) j = pgValue g j := by
  have hsize' := toNat_pgRebuilt_size g hsize
  have hpage : pgPageOf g j < pgPageCount size g.shift.toNat := by
    have hlt := pgPageOf_lt (g := pgRebuilt g size) (j := j) (by rw [hsize']; exact length_pgRebuilt ..)
      (by rwa [hsize'])
    rwa [length_pgRebuilt] at hlt
  have hoffset : pgOffsetOf g j < pgPageLen size g.shift.toNat (pgPageOf g j) := by
    have hlt := pgOffsetOf_lt (g := pgRebuilt g size) (j := j) (by rwa [hsize'])
    rwa [hsize'] at hlt
  calc pgValue (pgRebuilt g size) j
      = cellGet (cellBelow (pgPage g (pgPageOf g j)).val (pgPageLen size g.shift.toNat (pgPageOf g j)))
          (pgOffsetOf g j) := congrArg (fun q : PgPage => cellGet q.val _) (pgPage_pgRebuilt hpage)
    _ = pgValue g j := by rw [cellGet_cellBelow, if_pos hoffset, pgValue]

end Sys2Proof.Machine
end

section
/-! PROOFS. What the commands of the growable writer and the paged array do when they are not rejected, and that none of
them loses a value (45_dynamic_array R383 to R386, R392 to R398). -/

namespace Sys2Proof.Machine

section Commands

variable {s : State}

/-! ## What passes the checks -/

theorem gwSetCheck_eq_none (s : State) : gwSetCheck s = none ↔
    (s.gw.state = .ready ∧ s.args.a0.toNat < s.gw.size.toNat) ∧ (2 ^ s.gw.bpv.toNat ≤ s.args.a1.toNat →
      seqWords s.gw.size.toNat (bitlen s.args.a1.toNat) ≤ s.cfg.gwStoreWords) := by
  simp only [gwSetCheck, Option.or_eq_none_iff, checkGwReady_eq_none, checkGwIndex_eq_none, maxValue_lt_iff]
  refine and_congr_right fun _ => ?_
  split
  · next hwide => rw [checkGwCapacity_eq_none, forall_prop_of_true hwide]
  · next hfits => exact iff_of_true rfl fun hwide => absurd hwide hfits

theorem pgInitCheck_eq_none (w : Nat) (s : State) : pgInitCheck w s = none ↔
    ((1 ≤ w ∧ w ≤ 64) ∧ 6 ≤ s.args.a1.toNat ∧ s.args.a1.toNat ≤ 30) ∧
    pgPageCount s.args.a0.toNat s.args.a1.toNat ≤ s.cfg.pgMaxPages ∧
    pgPlanWords s.args.a0.toNat s.args.a1.toNat (pgPageCount s.args.a0.toNat s.args.a1.toNat) (fun _ => w) ≤
      s.cfg.pgStoreWords := by
  simp only [pgInitCheck, Option.or_eq_none_iff, checkBpv_eq_none, require_eq_none]
  refine and_congr_right fun ⟨_, hsh⟩ => ?_
  rw [if_pos hsh, checkPgCapacity_eq_none, pgWords_replicate]
  simp [s.args.a0.isLt]

theorem pgSetCheck_eq_none (s : State) : pgSetCheck s = none ↔
    (s.pg.state = .ready ∧ s.args.a0.toNat < s.pg.size.toNat) ∧
    (2 ^ (pgPage s.pg (pgPageOf s.pg s.args.a0.toNat)).w ≤ s.args.a1.toNat →
      checkPgCapacity s.cfg s.pg.size.toNat s.pg.shift.toNat (pgNp s.pg) (fun _ =>
        (s.pg.pages.map PgPage.w).set (pgPageOf s.pg s.args.a0.toNat) (bitlen s.args.a1.toNat)) = none) := by
  simp only [pgSetCheck, Option.or_eq_none_iff, checkPgReady_eq_none, checkPgIndex_eq_none, maxValue_lt_iff]
  refine and_congr_right fun _ => ?_
  split
  · next hwide => rw [forall_prop_of_true hwide]
  · next hfits => exact iff_of_true rfl fun hwide => absurd hwide hfits

/-- The plan of a rebuild fits (45_dynamic_array R391, R395). -/
abbrev pgRebuildFits (p : Params) (g : PagedArray) (size : Nat) : Prop :=
  pgPageCount size g.shift.toNat ≤ p.pgMaxPages ∧
    pgPlanWords size g.shift.toNat (pgPageCount size g.shift.toNat) (pgRebuiltWidth g) ≤ p.pgStoreWords

theorem checkPgRebuild_eq_none_iff_fits (p : Params) (g : PagedArray) (size : Nat) :
    checkPgRebuild p g size = none ↔ pgRebuildFits p g size ∧ size < 2 ^ 64 := by
  rw [checkPgRebuild_eq_none, pgWords_pgRebuiltWidths, ← and_assoc]

theorem pgGrowCheck_eq_none (s : State) : pgGrowCheck s = none ↔ s.pg.state = .ready ∧
    (s.pg.size.toNat < s.args.a0.toNat → checkPgRebuild s.cfg s.pg (pgGrowTarget s.args.a0.toNat) = none) := by
  simp only [pgGrowCheck, Option.or_eq_none_iff, checkPgReady_eq_none]
  refine and_congr_right fun _ => ?_
  split
  · next hle => exact iff_of_true rfl fun hlt => absurd hlt (not_lt.2 hle)
  · next hlt => rw [forall_prop_of_true (not_le.1 hlt)]

/-! ## What a command does when its checks pass -/

theorem exec_gwInit_of_fits {w : Nat} (hw : 1 ≤ w ∧ w ≤ 64)
    (h : seqWords s.args.a0.toNat w ≤ s.cfg.gwStoreWords) : exec (.gwInit w) s =
      .next ({ s with gw := { state := .ready, size := s.args.a0, bpv := u64 w, val := [] } }).complete := by
  rw [exec, execGwInit, (checkBpv_eq_none w).2 hw, Option.none_or, (checkGwCapacity_eq_none ..).2 h, conclude_none]

theorem exec_gwGet_of_lt (hr : s.gw.state = .ready) (hi : s.args.a0.toNat < s.gw.size.toNat) :
    exec .gwGet s = .next (s.setRes0 (gwValue s.gw s.args.a0.toNat)).complete := by
  rw [exec, execGwGet, (checkGwReady_eq_none s).2 hr, Option.none_or, (checkGwIndex_eq_none s).2 hi, conclude_none,
    gwValue]

theorem exec_gwSet_of_check {w : Nat} (h : gwSetCheck s = none)
    (hw : widthAfter s.gw.bpv.toNat s.args.a1.toNat = w) : exec .gwSet s =
      .next (({ s with gw := { s.gw with
        bpv := u64 w, val := cellPut s.gw.val s.args.a0.toNat s.args.a1 } }).setRes0 (u64 w)).complete := by
  rw [exec, execGwSet, h, conclude_none, hw]

theorem exec_gwResize_of_fits (hr : s.gw.state = .ready)
    (h : seqWords s.args.a0.toNat s.gw.bpv.toNat ≤ s.cfg.gwStoreWords) : exec .gwResize s =
      .next ({ s with gw := { s.gw with
        size := s.args.a0, val := cellBelow s.gw.val s.args.a0.toNat } }).complete := by
  rw [exec, execGwResize, (checkGwReady_eq_none s).2 hr, Option.none_or, (checkGwCapacity_eq_none ..).2 h,
    conclude_none]

theorem exec_pgInit_of_check {w : Nat} (h : pgInitCheck w s = none) : exec (.pgInit w) s =
    .next ({ s with pg :=
      { state := .ready, size := s.args.a0, shift := s.args.a1, bpv0 := u64 w
        pages := List.replicate (pgPageCount s.args.a0.toNat s.args.a1.toNat) ⟨w, []⟩ } }).complete := by
  rw [exec, execPgInit, h, conclude_none]

theorem exec_pgGet_of_lt (hr : s.pg.state = .ready) (hi : s.args.a0.toNat < s.pg.size.toNat) :
    exec .pgGet s = .next (s.setRes0 (pgValue s.pg s.args.a0.toNat)).complete := by
  rw [exec, execPgGet, (checkPgReady_eq_none s).2 hr, Option.none_or, (checkPgIndex_eq_none s).2 hi, conclude_none]

theorem exec_pgPageBpv_of_lt (hr : s.pg.state = .ready) (hk : s.args.a0.toNat < pgNp s.pg) :
    exec .pgPageBpv s = .next (s.setRes0 (u64 (pgPage s.pg s.args.a0.toNat).w)).complete := by
  rw [exec, execPgPageBpv, (checkPgReady_eq_none s).2 hr, Option.none_or, require_pos hk, conclude_none]

theorem exec_pgSet_of_check {w : Nat} (h : pgSetCheck s = none)
    (hw : pgWidthAfter s.pg (pgPageOf s.pg s.args.a0.toNat) s.args.a1.toNat = w) : exec .pgSet s =
      .next (({ s with pg := { s.pg with pages := pgSetPages s.pg s.args.a0.toNat s.args.a1 } }).setRes0
        (u64 w)).complete := by
  rw [exec, execPgSet, h, conclude_none, hw]

theorem exec_pgResize_of_fits (hr : s.pg.state = .ready) (h : pgRebuildFits s.cfg s.pg s.args.a0.toNat) :
    exec .pgResize s = .next ({ s with pg := pgRebuilt s.pg s.args.a0.toNat }).complete := by
  rw [exec, execPgResize, (checkPgReady_eq_none s).2 hr, Option.none_or,
    (checkPgRebuild_eq_none_iff_fits ..).2 ⟨h, s.args.a0.isLt⟩, conclude_none]

theorem exec_pgGrow_of_le (hr : s.pg.state = .ready) (hle : s.args.a0.toNat ≤ s.pg.size.toNat) :
    exec .pgGrow s = .next (s.setRes0 s.pg.size).complete := by
  have hcheck := (pgGrowCheck_eq_none s).2 ⟨hr, fun hlt => absurd hlt (not_lt.2 hle)⟩
  rw [exec, execPgGrow, hcheck, conclude_none, pgGrowEffect, if_pos hle]

theorem exec_pgGrow_of_fits (hr : s.pg.state = .ready) (hlt : s.pg.size.toNat < s.args.a0.toNat)
    (hm : pgGrowTarget s.args.a0.toNat < 2 ^ 64)
    (h : pgRebuildFits s.cfg s.pg (pgGrowTarget s.args.a0.toNat)) : exec .pgGrow s =
      .next (({ s with pg := pgRebuilt s.pg (pgGrowTarget s.args.a0.toNat) }).setRes0
        (u64 (pgGrowTarget s.args.a0.toNat))).complete := by
  have hcheck := (pgGrowCheck_eq_none s).2 ⟨hr, fun _ => (checkPgRebuild_eq_none_iff_fits ..).2 ⟨h, hm⟩⟩
  rw [exec, execPgGrow, hcheck, conclude_none, pgGrowEffect, if_neg (not_le.2 hlt)]

end Commands

/-! ## Growable writer (R383 to R386) -/

/-- Settles O42: each command's outcome when its checks pass, and the value under each key of the sparse store it
leaves. -/
theorem growableWriterCommands : Obligations.GrowableWriterCommands := by
  refine fun s => ⟨fun w hw hw' hfit => ?_, fun hr hg => ?_⟩
  · exact ⟨_, exec_gwInit_of_fits ⟨hw, hw'⟩ hfit, rfl, rfl, rfl, rfl, fun _ => rfl⟩
  intro i
  refine ⟨fun hi => exec_gwGet_of_lt hr hi, fun hi => ?_, fun hfit => ?_⟩
  · intro v w hfit
    have hwidth : widthAfter s.gw.bpv.toNat v = w := widthAfter_eq ..
    obtain ⟨-, -, ⟨hsorted, -⟩, -⟩ := hg hr
    have hcheck : gwSetCheck s = none := (gwSetCheck_eq_none s).2 ⟨⟨hr, hi⟩, fun hwide => by
      rwa [show w = bitlen v from if_neg (not_lt.2 hwide)] at hfit⟩
    refine ⟨_, exec_gwSet_of_check hcheck hwidth, rfl, hwidth ▸ lt_two_pow_widthAfter .., fun j => ?_⟩
    split
    · next hj => exact hj ▸ cellGet_cellPut_same _ _ _ hsorted
    · next hj => exact cellGet_cellPut_other _ _ _ _ hj
  · exact ⟨_, exec_gwResize_of_fits hr hfit, rfl, cellGet_cellBelow _ _⟩

/-! ## Paged array (R392 to R397) -/

/-- Settles O44: each command's outcome when its checks pass, with the pages and the values of the array it leaves. -/
theorem pagedArrayInitGetSet : Obligations.PagedArrayInitGetSet := by
  intro s words
  refine ⟨fun w hw hw' hlow hhigh => ?_, fun hr hg => ?_⟩
  · intro size sh np hnp hfit
    have hcount : pgPageCount size sh = np := pgPageCount_eq ..
    have hcheck : pgInitCheck w s = none := (pgInitCheck_eq_none w s).2
      ⟨⟨⟨hw, hw'⟩, hlow, hhigh⟩, hcount.le.trans hnp, by rw [hcount]; exact hfit⟩
    refine ⟨_, exec_pgInit_of_check hcheck, rfl, rfl, rfl, rfl, rfl, List.length_replicate.trans hcount,
      fun k hk => ?_, fun i _ => pgValue_of_empty rfl i⟩
    rw [pgPage_of_replicate rfl (hcount ▸ hk)]
  intro i
  refine ⟨fun hi => exec_pgGet_of_lt hr hi, fun hk => exec_pgPageBpv_of_lt hr hk, fun hi => ?_⟩
  intro k v w hfit
  have hwidth : pgWidthAfter s.pg k v = w := widthAfter_eq ..
  obtain ⟨-, -, hnp, hmax, -⟩ := hg hr
  have hk : k < pgNp s.pg := pgPageOf_lt hnp hi
  have hcheck : pgSetCheck s = none := (pgSetCheck_eq_none s).2 ⟨⟨hr, hi⟩, fun hwide => by
    rw [checkPgCapacity_eq_none, pgWords_set fun _ _ => rfl]
    rw [show w = bitlen v from if_neg (not_lt.2 hwide)] at hfit
    exact ⟨hmax, hfit, s.pg.size.isLt⟩⟩
  refine ⟨_, exec_pgSet_of_check hcheck hwidth, rfl, hwidth ▸ lt_two_pow_widthAfter .., pgNp_pgSetPages ..,
    fun k' _ => ?_, fun j _ => ?_⟩
  · rw [← hwidth]
    exact pgPage_w_pgSetPages _ hk k'
  · split
    · next hj => exact hj ▸ pgValue_pgSetPages_same _ hr hg hk
    · next hj => exact pgValue_pgSetPages_other _ hk hj

/-- What a rebuild that fits leaves: kept pages and values, new pages of the declared width, zeros past the old size. -/
theorem pgRebuilt_spec {p : Params} {g : PagedArray} {m : Nat} (hr : g.state = .ready) (hg : PgInv p g)
    (hm : m < 2 ^ 64) : pgNp (pgRebuilt g m) = pgPageCount m g.shift.toNat ∧
      (∀ k, k < pgPageCount m g.shift.toNat → (pgPage (pgRebuilt g m) k).w = pgRebuiltWidth g k) ∧
      ∀ j, j < m → pgValue (pgRebuilt g m) j = if j < g.size.toNat then pgValue g j else 0 := by
  refine ⟨length_pgRebuilt .., fun k hk => by rw [pgPage_pgRebuilt hk], fun j hj => ?_⟩
  rw [pgValue_pgRebuilt hm hj]
  split
  · rfl
  · next hge => exact pgValue_of_size_le hr hg (not_lt.1 hge)

/-- Settles O45: a resize and a growth that fit leave the rebuilt array. -/
theorem pagedArrayResizeGrow : Obligations.PagedArrayResizeGrow := by
  intro s hr hg sh pages width fits rebuilt
  have hpages (m : Nat) : pages m = pgPageCount m sh := (pgPageCount_eq m sh).symm
  have hfits {m : Nat} (h : fits m) : pgRebuildFits s.cfg s.pg m := by
    obtain ⟨hnp, hwords⟩ := h
    rw [hpages] at hnp hwords
    exact ⟨hnp, hwords⟩
  have hrebuilt {m : Nat} (hm : m < 2 ^ 64) : rebuilt m (pgRebuilt s.pg m) := by
    obtain ⟨hnp, hwidth, hvalue⟩ := pgRebuilt_spec hr hg hm
    refine ⟨hr, rfl, rfl, rfl, ?_, ?_, hvalue⟩ <;> rw [hpages]
    · exact hnp
    · exact hwidth
  refine ⟨fun hfit => ?_, fun hle => exec_pgGrow_of_le hr hle, fun hlt => ?_⟩
  · exact ⟨_, exec_pgResize_of_fits hr (hfits hfit), rfl, hrebuilt s.args.a0.isLt⟩
  · intro m hm hfit
    exact ⟨_, exec_pgGrow_of_fits hr hlt hm (hfits hfit), rfl, hrebuilt hm⟩

/-! ## No value is lost (R398) -/

section NoLoss

variable {s t : State}

theorem gwValue_of_gwSet (h : exec .gwSet s = .next t) (herr : t.status.err = false) {j : Nat}
    (hj : j ≠ s.args.a0.toNat) : gwValue t.gw j = gwValue s.gw j := by
  rw [exec, execGwSet] at h
  obtain ⟨-, rfl⟩ | ⟨e, -, rfl⟩ := conclude_cases _ _ _ _ h
  · exact cellGet_cellPut_other _ _ _ _ hj
  · cases herr

theorem gwValue_of_gwResize (h : exec .gwResize s = .next t) (herr : t.status.err = false) {j : Nat}
    (hj : j < t.gw.size.toNat) : gwValue t.gw j = gwValue s.gw j := by
  rw [exec, execGwResize] at h
  obtain ⟨-, rfl⟩ | ⟨e, -, rfl⟩ := conclude_cases _ _ _ _ h
  · exact (cellGet_cellBelow ..).trans (if_pos hj)
  · cases herr

theorem pgValue_of_pgSet (hg : PgInv s.cfg s.pg) (h : exec .pgSet s = .next t) (herr : t.status.err = false) {j : Nat}
    (hj : j ≠ s.args.a0.toNat) : pgValue t.pg j = pgValue s.pg j := by
  rw [exec, execPgSet] at h
  obtain ⟨hc, rfl⟩ | ⟨e, -, rfl⟩ := conclude_cases _ _ _ _ h
  · obtain ⟨⟨hr, hi⟩, -⟩ := (pgSetCheck_eq_none s).1 hc
    obtain ⟨-, -, hnp, -⟩ := hg hr
    exact pgValue_pgSetPages_other _ (pgPageOf_lt hnp hi) hj
  · cases herr

theorem pgValue_of_pgResize (h : exec .pgResize s = .next t) (herr : t.status.err = false) {j : Nat}
    (hj : j < t.pg.size.toNat) : pgValue t.pg j = pgValue s.pg j := by
  rw [exec, execPgResize] at h
  obtain ⟨-, rfl⟩ | ⟨e, -, rfl⟩ := conclude_cases _ _ _ _ h
  · have hsize := toNat_pgRebuilt_size s.pg s.args.a0.isLt
    exact pgValue_pgRebuilt s.args.a0.isLt (hj.trans_eq hsize)
  · cases herr

theorem pgValue_of_pgGrow (h : exec .pgGrow s = .next t) (herr : t.status.err = false) {j : Nat}
    (hj : j < t.pg.size.toNat) : pgValue t.pg j = pgValue s.pg j := by
  rw [exec, execPgGrow] at h
  obtain ⟨hc, rfl⟩ | ⟨e, -, rfl⟩ := conclude_cases _ _ _ _ h
  · rw [State.complete_pg, pgGrowEffect] at hj ⊢
    split at hj
    · next hle => rw [if_pos hle]; rfl
    · next hgt =>
      obtain ⟨-, hcap⟩ := (pgGrowCheck_eq_none s).1 hc
      obtain ⟨-, hm⟩ := (checkPgRebuild_eq_none_iff_fits ..).1 (hcap (not_le.1 hgt))
      have hsize := toNat_pgRebuilt_size s.pg hm
      rw [if_neg hgt]
      exact pgValue_pgRebuilt hm (hj.trans_eq hsize)
  · cases herr

/-- A command that ends with an error leaves both arrays as they were (60_exceptions R531). -/
theorem arrays_of_exec_err {i : Instr} (hs : s.status.err = false) (h : exec i s = .next t)
    (herr : t.status.err = true) : t.gw = s.gw ∧ t.pg = s.pg := by
  obtain ⟨u, hu, -, rfl⟩ | ⟨e, v, rfl⟩ | ⟨-, e, v, rfl⟩ := exec_cases i s t h
  · rw [State.complete_status, statusComplete_err, hu.status, hs] at herr
    cases herr
  · exact ⟨rfl, rfl⟩
  · exact ⟨rfl, rfl⟩

end NoLoss

/-- Settles O46: every command that ends without an error writes one value, cuts, or rebuilds; one that ends with an
error leaves the arrays. -/
theorem arraysLoseNoValue : Obligations.ArraysLoseNoValue := by
  refine fun s t i hs _ hpg h => ⟨?_, ?_, fun herr _ => arrays_of_exec_err hs h herr⟩
  · rintro (rfl | rfl) herr j _ hj hne
    · exact gwValue_of_gwSet h herr (hne rfl)
    · exact gwValue_of_gwResize h herr hj
  · rintro (rfl | rfl | rfl) herr j _ hj hne
    · exact pgValue_of_pgSet hpg h herr (hne rfl)
    · exact pgValue_of_pgResize h herr hj
    · exact pgValue_of_pgGrow h herr hj

end Sys2Proof.Machine
end

section
/-! PROOFS. What the growable writer and the paged array reject (45_dynamic_array R381 to R397): each command is given
by the checks in front of it, and the first check that fails is the error it completes with (60_exceptions R531,
R534). -/

namespace Sys2Proof.Machine

/-! ## The first check of a command -/

/-- The command makes the check `c` before any other. -/
def ChecksFirst (i : Instr) (s : State) (c : Check) : Prop := ∃ c' f, exec i s = s.conclude (c.or c') f

namespace ChecksFirst

variable {i : Instr} {s : State} {c c' : Check}

theorem of_conclude {f : Unit → State} (h : exec i s = s.conclude c f) : ChecksFirst i s c :=
  ⟨none, f, by rw [h, Option.or_none]⟩

theorem left (h : ChecksFirst i s (c.or c')) : ChecksFirst i s c := by
  obtain ⟨d, f, h⟩ := h
  exact ⟨c'.or d, f, by rw [h, Option.or_assoc]⟩

/-- The check after one that passes. -/
theorem right (h : ChecksFirst i s (c.or c')) (hc : c = none) : ChecksFirst i s c' := by
  rwa [hc, Option.none_or] at h

theorem rejected (h : ChecksFirst i s c) {e : ErrCode} {v : Word} (hc : c = some (e, v)) :
    exec i s = .next (s.completeErr e v) := by
  obtain ⟨d, f, h⟩ := h
  rw [h, hc, Option.some_or, conclude_some]

end ChecksFirst

section Commands

variable (s : State)

theorem gwInit_checks (w : Nat) :
    ChecksFirst (.gwInit w) s ((checkBpv w).or (checkGwCapacity s.cfg s.args.a0.toNat w)) :=
  .of_conclude (by rw [exec, execGwInit])

theorem gwGet_checks : ChecksFirst .gwGet s ((checkGwReady s).or (checkGwIndex s)) :=
  .of_conclude (by rw [exec, execGwGet])

theorem gwSet_checks : ChecksFirst .gwSet s (gwSetCheck s) :=
  .of_conclude (by rw [exec, execGwSet])

theorem gwResize_checks : ChecksFirst .gwResize s
    ((checkGwReady s).or (checkGwCapacity s.cfg s.args.a0.toNat s.gw.bpv.toNat)) :=
  .of_conclude (by rw [exec, execGwResize])

theorem pgInit_checks (w : Nat) : ChecksFirst (.pgInit w) s (pgInitCheck w s) :=
  .of_conclude (by rw [exec, execPgInit])

theorem pgGet_checks : ChecksFirst .pgGet s ((checkPgReady s).or (checkPgIndex s)) :=
  .of_conclude (by rw [exec, execPgGet])

theorem pgSet_checks : ChecksFirst .pgSet s (pgSetCheck s) :=
  .of_conclude (by rw [exec, execPgSet])

theorem pgResize_checks : ChecksFirst .pgResize s
    ((checkPgReady s).or (checkPgRebuild s.cfg s.pg s.args.a0.toNat)) :=
  .of_conclude (by rw [exec, execPgResize])

theorem pgGrow_checks : ChecksFirst .pgGrow s (pgGrowCheck s) :=
  .of_conclude (by rw [exec, execPgGrow])

theorem pgPageBpv_checks : ChecksFirst .pgPageBpv s
    ((checkPgReady s).or (require (s.args.a0.toNat < pgNp s.pg) .indexOutOfRange s.args.a0)) :=
  .of_conclude (by rw [exec, execPgPageBpv])

/-- Every command of an initialised growable writer checks that first (45_dynamic_array section 1). -/
theorem gwCommand_checks_ready : ∀ i ∈ [Instr.gwGet, .gwSet, .gwResize], ChecksFirst i s (checkGwReady s) := by
  simp only [List.forall_mem_cons]
  exact ⟨(gwGet_checks s).left, (gwSet_checks s).left.left, (gwResize_checks s).left, nofun⟩

/-- Then the index is checked (R384, R385). -/
theorem gwCommand_checks_index : ∀ i ∈ [Instr.gwGet, .gwSet],
    ChecksFirst i s ((checkGwReady s).or (checkGwIndex s)) := by
  simp only [List.forall_mem_cons]
  exact ⟨gwGet_checks s, (gwSet_checks s).left, nofun⟩

/-- Every command of an initialised paged array checks that first (45_dynamic_array section 2). -/
theorem pgCommand_checks_ready : ∀ i ∈ [Instr.pgGet, .pgSet, .pgResize, .pgGrow, .pgPageBpv],
    ChecksFirst i s (checkPgReady s) := by
  simp only [List.forall_mem_cons]
  exact ⟨(pgGet_checks s).left, (pgSet_checks s).left.left, (pgResize_checks s).left, (pgGrow_checks s).left,
    (pgPageBpv_checks s).left, nofun⟩

/-- Then the index is checked (R393, R394). -/
theorem pgCommand_checks_index : ∀ i ∈ [Instr.pgGet, .pgSet],
    ChecksFirst i s ((checkPgReady s).or (checkPgIndex s)) := by
  simp only [List.forall_mem_cons]
  exact ⟨pgGet_checks s, (pgSet_checks s).left, nofun⟩

end Commands

/-! ## Capacity (R381, R391) -/

theorem checkGwCapacity_of_lt {p : Params} {size w : Nat} (h : p.gwStoreWords < seqWords size w) :
    checkGwCapacity p size w = some (.capacityExceeded, u64 (seqWords size w)) := require_neg (not_le.2 h) ..

section Plans

variable {p : Params} {size sh np : Nat} {widths : Unit → List Nat}

/-- The page count is checked first. -/
theorem checkPgCapacity_of_pages (h : p.pgMaxPages < np) :
    checkPgCapacity p size sh np widths = some (.capacityExceeded, u64 np) := if_pos h

theorem checkPgCapacity_of_words (hnp : np ≤ p.pgMaxPages) (h : p.pgStoreWords < pgWords size sh (widths ())) :
    checkPgCapacity p size sh np widths = some (.capacityExceeded, u64 (pgWords size sh (widths ()))) := by
  rw [checkPgCapacity, if_neg (not_lt.2 hnp)]
  exact require_neg (fun hfits => not_le.2 h hfits.1) ..

/-- A size that is no word never fits (R396). -/
theorem checkPgCapacity_of_size (h : 2 ^ 64 ≤ size) :
    ∃ info, checkPgCapacity p size sh np widths = some (.capacityExceeded, info) := by
  by_cases hnp : p.pgMaxPages < np
  · exact ⟨_, checkPgCapacity_of_pages hnp⟩
  · rw [checkPgCapacity, if_neg hnp]
    exact ⟨_, require_neg (fun hfits => not_lt.2 h hfits.2) ..⟩

end Plans

section Rebuild

variable {p : Params} {g : PagedArray} {size : Nat}

theorem checkPgRebuild_of_pages (h : p.pgMaxPages < pgPageCount size g.shift.toNat) :
    checkPgRebuild p g size = some (.capacityExceeded, u64 (pgPageCount size g.shift.toNat)) :=
  checkPgCapacity_of_pages (widths := fun _ => pgRebuiltWidths g (pgPageCount size g.shift.toNat)) h

theorem checkPgRebuild_of_words (hnp : pgPageCount size g.shift.toNat ≤ p.pgMaxPages)
    (h : p.pgStoreWords < pgPlanWords size g.shift.toNat (pgPageCount size g.shift.toNat) (pgRebuiltWidth g)) :
    checkPgRebuild p g size = some (.capacityExceeded,
      u64 (pgPlanWords size g.shift.toNat (pgPageCount size g.shift.toNat) (pgRebuiltWidth g))) := by
  rw [← pgWords_pgRebuiltWidths] at h ⊢
  exact checkPgCapacity_of_words (widths := fun _ => pgRebuiltWidths g (pgPageCount size g.shift.toNat)) hnp h

/-- A growth to a size that is no word never fits (R396). -/
theorem checkPgRebuild_of_size (h : 2 ^ 64 ≤ size) :
    ∃ info, checkPgRebuild p g size = some (.capacityExceeded, info) :=
  checkPgCapacity_of_size (widths := fun _ => pgRebuiltWidths g (pgPageCount size g.shift.toNat)) h

end Rebuild

/-- The width page `k` has in the plan of a write of `v` at index `i` that widens the page of `i` (R394). -/
def pgSetWidth (g : PagedArray) (i v k : Nat) : Nat := if k = pgPageOf g i then bitlen v else pgRebuiltWidth g k

section Plan

variable {s : State}

theorem pgInit_checks_plan {w : Nat} (hw : 1 ≤ w ∧ w ≤ 64) (hsh : 6 ≤ s.args.a1.toNat ∧ s.args.a1.toNat ≤ 30) :
    ChecksFirst (.pgInit w) s (checkPgCapacity s.cfg s.args.a0.toNat s.args.a1.toNat
      (pgPageCount s.args.a0.toNat s.args.a1.toNat)
      fun _ => List.replicate (pgPageCount s.args.a0.toNat s.args.a1.toNat) w) := by
  have h := (pgInit_checks s w).right
    (Option.or_eq_none_iff.2 ⟨(checkBpv_eq_none w).2 hw, require_pos hsh _ _⟩)
  rwa [if_pos hsh] at h

theorem pgSet_checks_plan (hr : s.pg.state = .ready) (hi : s.args.a0.toNat < s.pg.size.toNat)
    (hwide : 2 ^ (pgPage s.pg (pgPageOf s.pg s.args.a0.toNat)).w ≤ s.args.a1.toNat) :
    ChecksFirst .pgSet s (checkPgCapacity s.cfg s.pg.size.toNat s.pg.shift.toNat (pgNp s.pg) fun _ =>
      (s.pg.pages.map PgPage.w).set (pgPageOf s.pg s.args.a0.toNat) (bitlen s.args.a1.toNat)) := by
  have h := (pgSet_checks s).right
    (Option.or_eq_none_iff.2 ⟨(checkPgReady_eq_none s).2 hr, (checkPgIndex_eq_none s).2 hi⟩)
  rwa [if_pos ((maxValue_lt_iff ..).2 hwide)] at h

theorem gwSet_checks_capacity (hr : s.gw.state = .ready) (hi : s.args.a0.toNat < s.gw.size.toNat)
    (hwide : 2 ^ s.gw.bpv.toNat ≤ s.args.a1.toNat) :
    ChecksFirst .gwSet s (checkGwCapacity s.cfg s.gw.size.toNat (bitlen s.args.a1.toNat)) := by
  have h := (gwSet_checks s).right
    (Option.or_eq_none_iff.2 ⟨(checkGwReady_eq_none s).2 hr, (checkGwIndex_eq_none s).2 hi⟩)
  rwa [if_pos ((maxValue_lt_iff ..).2 hwide)] at h

/-- A write that widens its page past the store is rejected with the word sum of its plan (R391, R394). -/
theorem exec_pgSet_of_no_room (hr : s.pg.state = .ready) (hg : PgInv s.cfg s.pg)
    (hi : s.args.a0.toNat < s.pg.size.toNat)
    (hwide : 2 ^ (pgPage s.pg (pgPageOf s.pg s.args.a0.toNat)).w ≤ s.args.a1.toNat)
    (hstore : s.cfg.pgStoreWords < pgPlanWords s.pg.size.toNat s.pg.shift.toNat
      (pgPageCount s.pg.size.toNat s.pg.shift.toNat) (pgSetWidth s.pg s.args.a0.toNat s.args.a1.toNat)) :
    exec .pgSet s = .next (s.completeErr .capacityExceeded (u64 (pgPlanWords s.pg.size.toNat s.pg.shift.toNat
      (pgPageCount s.pg.size.toNat s.pg.shift.toNat) (pgSetWidth s.pg s.args.a0.toNat s.args.a1.toNat)))) := by
  obtain ⟨-, -, hnp, hmax, -⟩ := hg hr
  rw [← hnp, ← pgWords_set fun k hk => by rw [pgSetWidth, pgRebuiltWidth_of_lt hk]] at hstore ⊢
  exact (pgSet_checks_plan hr hi hwide).rejected (checkPgCapacity_of_words hmax hstore)

theorem pgResize_checks_plan (hr : s.pg.state = .ready) :
    ChecksFirst .pgResize s (checkPgRebuild s.cfg s.pg s.args.a0.toNat) :=
  (pgResize_checks s).right ((checkPgReady_eq_none s).2 hr)

theorem pgGrow_checks_plan (hr : s.pg.state = .ready) (hlt : s.pg.size.toNat < s.args.a0.toNat) :
    ChecksFirst .pgGrow s (checkPgRebuild s.cfg s.pg (pgGrowTarget s.args.a0.toNat)) := by
  have h := (pgGrow_checks s).right ((checkPgReady_eq_none s).2 hr)
  rwa [if_neg (not_le.2 hlt)] at h

end Plan

/-! ## The rejections -/

/-- Settles O43: each rejection is the first check of its command that fails. -/
theorem dynamicArraysReject : Obligations.DynamicArraysReject := by
  refine ⟨fun s => ⟨fun hu i hi => ?_, fun w hw hw' hcap => ?_, fun hr => ⟨fun hge i hi => ?_, ?_, ?_⟩⟩,
    fun s => ⟨fun hu i hi => ?_, fun w hw hw' => ⟨fun hsh => ?_, fun hsh => ?_⟩,
      fun hr => ⟨fun hge i hi => ?_, fun hge => ?_, ?_, fun hlt hm => ?_⟩, fun hr hg => ?_⟩⟩
  · exact (gwCommand_checks_ready s i hi).rejected (require_neg (by rw [hu]; decide) ..)
  · exact ((gwInit_checks s w).right ((checkBpv_eq_none w).2 ⟨hw, hw'⟩)).rejected (checkGwCapacity_of_lt hcap)
  · exact ((gwCommand_checks_index s i hi).right ((checkGwReady_eq_none s).2 hr)).rejected
      (require_neg (not_lt.2 hge) ..)
  · exact fun hi hwide hcap => (gwSet_checks_capacity hr hi hwide).rejected (checkGwCapacity_of_lt hcap)
  · exact fun hcap => ((gwResize_checks s).right ((checkGwReady_eq_none s).2 hr)).rejected
      (checkGwCapacity_of_lt hcap)
  · exact (pgCommand_checks_ready s i hi).rejected (require_neg (by rw [hu]; decide) ..)
  · exact ((pgInit_checks s w).left.right ((checkBpv_eq_none w).2 ⟨hw, hw'⟩)).rejected (require_neg hsh ..)
  · intro sh np words
    have hplan := pgInit_checks_plan ⟨hw, hw'⟩ hsh
    have hwords : pgWords s.args.a0.toNat sh (List.replicate np w) = words := pgWords_replicate ..
    rw [pgPageCount_eq] at hplan
    refine ⟨fun hnp => hplan.rejected (checkPgCapacity_of_pages hnp), fun hnp hstore => ?_⟩
    rw [← hwords] at hstore ⊢
    exact hplan.rejected (checkPgCapacity_of_words hnp hstore)
  · exact ((pgCommand_checks_index s i hi).right ((checkPgReady_eq_none s).2 hr)).rejected
      (require_neg (not_lt.2 hge) ..)
  · exact ((pgPageBpv_checks s).right ((checkPgReady_eq_none s).2 hr)).rejected (require_neg (not_lt.2 hge) ..)
  · intro np hnp
    have hcount : pgPageCount s.args.a0.toNat s.pg.shift.toNat = np := pgPageCount_eq ..
    rw [← hcount] at hnp ⊢
    exact (pgResize_checks_plan hr).rejected (checkPgRebuild_of_pages hnp)
  · obtain ⟨info, hinfo⟩ := checkPgRebuild_of_size (p := s.cfg) (g := s.pg) hm
    exact ⟨info, (pgGrow_checks_plan hr hlt).rejected hinfo⟩
  · intro sh pages words width i v
    have hpages (m : Nat) : pages m = pgPageCount m sh := (pgPageCount_eq m sh).symm
    have hwords (m : Nat) (ws : Nat → Nat) : words m ws = pgPlanWords m sh (pgPageCount m sh) ws := by
      rw [← hpages]
      rfl
    simp only [hwords, hpages]
    refine ⟨fun hi hwide hstore => exec_pgSet_of_no_room hr hg hi hwide hstore, fun hnp hstore => ?_,
      fun hlt => ⟨fun hnp => ?_, fun hnp hstore => ?_⟩⟩
    · exact (pgResize_checks_plan hr).rejected (checkPgRebuild_of_words hnp hstore)
    · exact (pgGrow_checks_plan hr hlt).rejected (checkPgRebuild_of_pages hnp)
    · exact (pgGrow_checks_plan hr hlt).rejected (checkPgRebuild_of_words hnp hstore)

end Sys2Proof.Machine
end

section
/-! PROOFS. What the Elias-Fano commands reject (46_ef_encoder R430, R433 to R435, 47_ef_decoder R475): the two
initialisations check their operands and then the three regions in order, the two writer commands the writer's state
before anything else (60_exceptions R531, R534). -/

namespace Sys2Proof.Machine

/-! ## The regions, in order (R430) -/

/-- The check of one region, given as a byte range; an empty one is not checked (46_ef_encoder R430). -/
def checkEfRange (p : Params) (r : Nat × Nat) : Check :=
  if r.2 = 0 then none
  else (require (r.1 % 8 = 0) .alignmentFault (u64 r.1)).or
    (require (r.1 + r.2 ≤ p.memBytes) .accessFault (u64 (max r.1 p.memBytes)))

theorem checkEfRegion_eq_range (p : Params) (base words : Nat) :
    checkEfRegion p base words = checkEfRange p (base, 8 * words) := by
  unfold checkEfRegion checkEfRange checkArray64
  simp only [Nat.mul_eq_zero, OfNat.ofNat_ne_zero, false_or]

/-- The regions are checked one after another, so the first that fails is reported. -/
theorem checkEfRegions_eq_findSome? (p : Params) (y : EfLayout) :
    checkEfRegions p y = (efRegions y).findSome? (checkEfRange p) := by
  have hsplit (a b c : Nat × Nat) : [a, b, c] = [a] ++ [b] ++ [c] := rfl
  rw [efRegions, hsplit, List.findSome?_append, List.findSome?_append]
  simp only [List.findSome?_singleton, checkEfRegions, checkEfRegion_eq_range]

section Range

variable {p : Params} {r : Nat × Nat}

theorem checkEfRange_eq_none :
    checkEfRange p r = none ↔ r.2 = 0 ∨ (r.1 % 8 = 0 ∧ r.1 + r.2 ≤ p.memBytes) := by
  unfold checkEfRange
  split
  · next h0 => simp [h0]
  · next h0 => simp only [Option.or_eq_none_iff, require_eq_none, h0, false_or]

theorem checkEfRange_of_misaligned (h0 : r.2 ≠ 0) (h8 : r.1 % 8 ≠ 0) :
    checkEfRange p r = some (.alignmentFault, u64 r.1) := by
  rw [checkEfRange, if_neg h0, require_neg h8, Option.some_or]

theorem checkEfRange_of_outside (h0 : r.2 ≠ 0) (h8 : r.1 % 8 = 0) (h : p.memBytes < r.1 + r.2) :
    checkEfRange p r = some (.accessFault, u64 (max r.1 p.memBytes)) := by
  rw [checkEfRange, if_neg h0, require_pos h8, Option.none_or, require_neg (not_le.2 h)]

/-- A region that fails after regions that pass is the one reported. -/
theorem checkEfRegions_of_first {y : EfLayout} {before after : List (Nat × Nat)} {e : Err}
    (hy : efRegions y = before ++ r :: after)
    (hb : ∀ q ∈ before, q.2 = 0 ∨ (q.1 % 8 = 0 ∧ q.1 + q.2 ≤ p.memBytes)) (he : checkEfRange p r = some e) :
    checkEfRegions p y = some e := by
  have hpass : before.findSome? (checkEfRange p) = none :=
    List.findSome?_eq_none_iff.2 fun q hq => checkEfRange_eq_none.2 (hb q hq)
  rw [checkEfRegions_eq_findSome?, hy, List.findSome?_append, hpass, Option.none_or, List.findSome?_cons, he]

end Range

/-! ## The checks of the commands -/

section Commands

variable (s : State)

theorem efInit_checks : ∀ i ∈ [Instr.efeInit, .efdInit],
    ChecksFirst i s (checkEfInit s.cfg (efLayoutOfArgs s.args)) := by
  simp only [List.forall_mem_cons]
  exact ⟨.of_conclude (by rw [exec, execEfeInit]), .of_conclude (by rw [exec, execEfdInit]), nofun⟩

theorem efeEncode_checks : ChecksFirst .efeEncode s (efeEncodeCheck s) :=
  .of_conclude (by rw [exec, execEfeEncode])

theorem efeFinish_checks : ChecksFirst .efeFinish s (efeFinishCheck s) :=
  .of_conclude (by rw [exec, execEfeFinish])

/-- Both commands of the writer check its state first (46_ef_encoder R434, R435). -/
theorem efeWriter_checks : ∀ i ∈ [Instr.efeEncode, .efeFinish], ChecksFirst i s (checkEfeEncoding s) := by
  simp only [List.forall_mem_cons]
  exact ⟨(efeEncode_checks s).left.left.left, (efeFinish_checks s).left, nofun⟩

end Commands

section Init

variable {s : State} {i : Instr}

theorem efInit_checks_regions (hi : i ∈ [Instr.efeInit, .efdInit])
    (hu : (efLayoutOfArgs s.args).u ≤ 2 ^ 63 - 1) (h2 : 2 ≤ (efLayoutOfArgs s.args).i)
    (hn : (efLayoutOfArgs s.args).n ≤ s.cfg.efMaxValues) :
    ChecksFirst i s (checkEfRegions s.cfg (efLayoutOfArgs s.args)) :=
  (efInit_checks s i hi).right (by
    simp only [checkEfParams, Option.or_eq_none_iff, require_eq_none]
    exact ⟨⟨hu, h2⟩, hn⟩)

/-- The operands of an initialisation that are out of range, in the order of their checks (R430). -/
theorem efInit_rejects_operands (hi : i ∈ [Instr.efeInit, .efdInit]) :
    (2 ^ 63 ≤ (efLayoutOfArgs s.args).u → exec i s = .next (s.completeErr .invalidArgument s.args.a1)) ∧
    ((efLayoutOfArgs s.args).u < 2 ^ 63 → (efLayoutOfArgs s.args).i < 2 →
      exec i s = .next (s.completeErr .invalidArgument s.args.a2)) ∧
    ((efLayoutOfArgs s.args).u < 2 ^ 63 → 2 ≤ (efLayoutOfArgs s.args).i →
      s.cfg.efMaxValues < (efLayoutOfArgs s.args).n →
      exec i s = .next (s.completeErr .capacityExceeded s.args.a0)) := by
  have hparams : ChecksFirst i s (checkEfParams s.cfg (efLayoutOfArgs s.args)) := (efInit_checks s i hi).left
  refine ⟨fun hu => ?_, fun hu h2 => ?_, fun hu h2 hn => ?_⟩
  · exact hparams.left.left.rejected ((require_eq_some ..).2 ⟨by omega, rfl, u64_toNat _⟩)
  · exact (hparams.left.right (require_pos (by omega) ..)).rejected
      ((require_eq_some ..).2 ⟨not_le.2 h2, rfl, u64_toNat _⟩)
  · refine (hparams.right ?_).rejected ((require_eq_some ..).2 ⟨not_le.2 hn, rfl, u64_toNat _⟩)
    rw [require_pos (by omega), require_pos h2, Option.none_or]

end Init

section Writer

variable {s : State}

theorem checkEfeEncoding_of_uninit (h : s.efe.state = .uninit) :
    checkEfeEncoding s = some (.notInitialized, 0) := by
  rw [checkEfeEncoding, require_neg (not_not.2 h), Option.some_or]

theorem checkEfeEncoding_of_finished (h : s.efe.state = .finished) :
    checkEfeEncoding s = some (.alreadyFinished, 0) := by
  rw [checkEfeEncoding, require_pos (by rw [h]; decide), require_neg (not_not.2 h), Option.none_or]

/-- A writer that is encoding checks the room for the value first (R434). -/
theorem efeEncode_rejects_full (he : s.efe.state = .encoding) (hn : s.efe.numEnc = s.efe.n) :
    exec .efeEncode s = .next (s.completeErr .capacityExceeded s.efe.n) :=
  ((efeEncode_checks s).left.left.right ((checkEfeEncoding_eq_none s).2 he)).rejected (require_neg (not_not.2 hn) ..)

/-- With room, the value is checked against the one before it and against the bound, with one error for both (R434). -/
theorem efeEncode_rejects_value (he : s.efe.state = .encoding) (hn : s.efe.numEnc ≠ s.efe.n)
    (hx : (s.efe.numEnc ≠ 0 ∧ s.args.a0.toNat < s.efe.last.toNat) ∨ s.efe.u.toNat < s.args.a0.toNat) :
    exec .efeEncode s = .next (s.completeErr .sequenceError s.args.a0) := by
  have hroom : (checkEfeEncoding s).or (require (s.efe.numEnc ≠ s.efe.n) .capacityExceeded s.efe.n) = none := by
    rw [(checkEfeEncoding_eq_none s).2 he, require_pos hn, Option.none_or]
  by_cases horder : s.efe.numEnc = 0 ∨ s.efe.last.toNat ≤ s.args.a0.toNat
  · have hbound : s.efe.u.toNat < s.args.a0.toNat :=
      hx.resolve_left fun ⟨h0, hlt⟩ => horder.elim h0 (not_le.2 hlt)
    refine ((efeEncode_checks s).right ?_).rejected (require_neg (not_le.2 hbound) ..)
    rw [hroom, require_pos horder, Option.none_or]
  · exact ((efeEncode_checks s).left.right hroom).rejected (require_neg horder ..)

theorem efeFinish_rejects_early (he : s.efe.state = .encoding) (hn : s.efe.numEnc ≠ s.efe.n) :
    exec .efeFinish s = .next (s.completeErr .sequenceError s.efe.numEnc) :=
  ((efeFinish_checks s).right ((checkEfeEncoding_eq_none s).2 he)).rejected (require_neg hn ..)

end Writer

/-- Settles O50: each rejection is the first check of its command that fails. -/
theorem eliasFanoRejects : Obligations.EliasFanoRejects := by
  refine fun s => ⟨fun i hi => ?_, fun i hi => ⟨fun hu => ?_, fun hf => ?_⟩, fun he =>
    ⟨efeEncode_rejects_full he, fun hn => ⟨efeEncode_rejects_value he hn, efeFinish_rejects_early he hn⟩⟩⟩
  · obtain ⟨hbound, hinterval, hcount⟩ := efInit_rejects_operands hi
    refine ⟨hbound, hinterval, hcount, fun hu h2 hn before r after hy hb h0 => ?_⟩
    have hregions := efInit_checks_regions hi (Nat.le_sub_one_of_lt hu) h2 hn
    exact ⟨fun h8 => hregions.rejected (checkEfRegions_of_first hy hb (checkEfRange_of_misaligned h0 h8)),
      fun h8 hout => hregions.rejected (checkEfRegions_of_first hy hb (checkEfRange_of_outside h0 h8 hout))⟩
  · exact (efeWriter_checks s i hi).rejected (checkEfeEncoding_of_uninit hu)
  · exact (efeWriter_checks s i hi).rejected (checkEfeEncoding_of_finished hf)

end Sys2Proof.Machine
end

section
/-! PROOFS. How a command is accepted, run and completed, and what a reset does to it (48_system R510, R511,
60_exceptions R530 to R540, 70_reset R580, R582): every command answers and completes, the engine's turn is the command
it holds, and a reset ends it at once. -/

namespace Sys2Proof.Machine

open Sys2Proof.Laws

/-! ## The reset state (70_reset R580) -/

/-- Settles O60: the parameters are legal, nothing is listed in the memory, and every context is UNINIT. -/
theorem resetHasInvariants : Obligations.ResetHasInvariants :=
  ⟨⟨config_params_legal, ⟨.nil, nofun⟩, nofun, nofun, nofun, nofun⟩, fun _ => rfl, rfl, nofun, nofun, nofun, nofun⟩

/-! ## Completion (60_exceptions R535) -/

/-- Every command completes, with its effect or with an error: none stops the machine. -/
theorem exec_answers (i : Instr) (s : State) : ∃ t, exec i s = .next t := by
  cases i
  case ddNext | ddSkip =>
    simp only [exec]
    exact concludeStream_next _ _ _
  case deAdd | deFinish =>
    simp only [exec, execDeAdd, execDeFinish]
    exact conclude_next _ _ _
  all_goals
    simp only [exec]
    exact conclude_next _ _ _

/-- What a command may change: its completion, the results, the stream pointers, the contexts, the data memory and the
count of draws. -/
theorem exec_confined {i : Instr} {s t : State} (h : exec i s = .next t) : t = { s with
    status := t.status, irq := t.irq, errInfo := t.errInfo, res := t.res, inPtr := t.inPtr, outPtr := t.outPtr
    de := t.de, dd := t.dd, gb := t.gb, gw := t.gw, pg := t.pg, efe := t.efe, efd := t.efd, mem := t.mem
    fresh := t.fresh } := by
  obtain ⟨u, hu, -, rfl⟩ | ⟨e, v, rfl⟩ | ⟨-, e, v, rfl⟩ := exec_cases i s t h
  · rw [hu.confined]
    rfl
  · rfl
  · rfl

/-- The codes of R530. -/
theorem errCodeNumber_bounds (e : ErrCode) : 1 ≤ (errCodeNumber e).toNat ∧ (errCodeNumber e).toNat ≤ 13 := by
  cases e <;> decide

/-- Settles O7: the two ways of R535 to complete, and the frame of every command. -/
theorem everyCommandCompletes : Obligations.EveryCommandCompletes := by
  intro i s
  obtain ⟨t, ht⟩ := exec_answers i s
  refine ⟨t, ht, ?_, by rw [exec_confined ht]; simp only [and_self]⟩
  obtain hok | ⟨e, hstatus, hirq⟩ := exec_completes ht
  · exact .inl hok
  · obtain ⟨hlow, hhigh⟩ := errCodeNumber_bounds e
    exact .inr ⟨errCodeNumber e, hlow, hhigh, hstatus, hirq⟩

/-! ## The engine's turn (60_exceptions R536) -/

/-- A command over which no hazard hangs leaves nothing to settle (70_reset R590). -/
theorem mapNext_settleHazards_exec {i : Instr} {s : State} (hz : s.hazard = {}) :
    mapNext State.settleHazards (exec i s) = exec i s := by
  obtain ⟨t, ht⟩ := exec_answers i s
  rw [ht, mapNext_next, settleHazards_none t ((exec_hazard ht).trans hz)]

theorem engineTurn_running {i : Instr} {s : State} (hb : s.status.busy = true) (hd : decode s.cmd = .ok i) :
    engineTurn s = mapNext State.settleHazards (exec i s) := by
  rw [engineTurn, if_pos hb, runCommand, hd]

/-- The engine's turn over a running command that no access of the host disturbed. -/
theorem step_undisturbed {i : Instr} {s : State} {rest : List Input}
    (hin : s.inputs = .engine :: rest ∨ (s.inputs = [] ∧ rest = [])) (hb : s.status.busy = true) (hz : s.hazard = {})
    (hd : decode s.cmd = .ok i) : step s = exec i { s with inputs := rest } := by
  rw [step_engine hin]
  exact (engineTurn_running (s := { s with inputs := rest }) hb hd).trans (mapNext_settleHazards_exec hz)

theorem engineFirst_inputs (l : List Input) : engineFirst l = .engine :: l ∨ (engineFirst l = [] ∧ l = []) := by
  cases l with
  | nil => exact .inr ⟨rfl, rfl⟩
  | cons x l => exact .inl rfl

theorem tableWord_toNat (c : Word) : tableWord 64 c.toNat = c := by
  rw [tableWord, Nat.mod_eq_of_lt c.isLt, BitVec.ofNat_toNat, BitVec.setWidth_eq]

/-- Settles O5: the engine's turn runs the word it holds, and a word put in its place is held and run. -/
theorem stepRunsTheHeldCommand : Obligations.StepRunsTheHeldCommand := by
  refine ⟨fun s i rest hb hd hin => ⟨?_, fun hz => step_undisturbed hin hb hz hd⟩, fun s i hw hz => ?_⟩
  · rw [step_engine hin]
    exact engineTurn_running (s := { s with inputs := rest }) hb hd
  · rw [State.withFetchWord, tableWord_toNat]
    exact step_undisturbed (s := s.issue (encode i)) (engineFirst_inputs s.inputs) rfl hz (decodeOfEncode i hw)

/-! ## The sticky OVR bit (60_exceptions R540) -/

theorem Completes.ovr {s t : State} (h : Completes s t) : t.status.ovr = s.status.ovr := by
  obtain ⟨hstatus, -⟩ | ⟨e, hstatus, -⟩ := h <;> rw [hstatus] <;> rfl

theorem engineTurn_ovr {s t : State} (h : engineTurn s = .next t) : t.status.ovr = s.status.ovr := by
  by_cases hb : s.status.busy = true
  · exact (engineTurn_completes hb h).ovr
  · rw [engineTurn_idle (Bool.eq_false_iff.2 hb) h]

/-- A store to a register keeps OVR, but for a reset and for a store to STATUS_CLR that names it. -/
theorem RegisterEffect.ovr {s t : State} {v : Word} {r : WinReg} (h : RegisterEffect s v r t)
    (hs : s.status.ovr = true) :
    t.status.ovr = true ∨ (r = .ctrl ∧ v.getLsbD 63 = true) ∨ (r = .statusClr ∧ v.getLsbD 3 = true) := by
  cases h with
  | reset hv => exact .inr (.inl ⟨rfl, hv⟩)
  | dropped => exact .inl rfl
  | statusClr =>
    cases hv : v.getLsbD 3 with
    | true => exact .inr (.inr ⟨rfl, rfl⟩)
    | false => exact .inl (by rw [statusClear_ovr, hs, hv]; rfl)
  | ignored | accepted | ctrl | irqStatus | operand | disturbed => exact .inl hs

theorem winReg_eq_statusClr {off : Nat} (h : winReg off = some .statusClr) : off = 0x028 := by
  unfold winReg at h
  split at h <;> simp_all

/-- An access of the host keeps OVR, but for a reset and for a store to STATUS_CLR that names it. -/
theorem hostStep_ovr {a : HostAccess} {s t : State} (h : hostStep a s = .next t) (hs : s.status.ovr = true) :
    t.status.ovr = true ∨ isSoftReset s.cfg a ∨
      ∃ v : Word, v.getLsbD 3 = true ∧ a = .regStore 8 (s.cfg.regBase + u64 0x028) v := by
  cases hostStep_effect h with
  | noStore => exact .inl hs
  | register addr v r hr =>
    obtain hovr | ⟨rfl, hv⟩ | ⟨rfl, hv⟩ := (writeReg_effect r v s).ovr hs
    · exact .inl hovr
    · exact .inr (.inl ⟨v, hv, by rw [← winReg_eq_ctrl hr, regBase_add_windowOffset]⟩)
    · exact .inr (.inr ⟨v, hv, by rw [← winReg_eq_statusClr hr, regBase_add_windowOffset]⟩)
  | word x v =>
    obtain ⟨m, k, hz, ht, -⟩ := hostStore_eq s x 8 v.toNat
    exact .inl (by rw [ht]; exact hs)
  | byte x v =>
    obtain ⟨m, k, hz, ht, -⟩ := hostStore_eq s x 1 v.toNat
    exact .inl (by rw [ht]; exact hs)

/-- The parts of a step that is no hardware reset: a turn of the engine, or an access of the host and, at a completion,
a turn of the engine after it (60_exceptions R546). -/
theorem step_parts {s t : State} (h : step s = .next t) :
    (∃ rest, s.inputs = .hardReset :: rest) ∨ (∃ rest, engineTurn { s with inputs := rest } = .next t) ∨
    ∃ a rest u, (s.inputs = .host a :: rest ∨ s.inputs = .hostAndEngine a :: rest) ∧
      hostStep a { s with inputs := rest } = .next u ∧ (t = u ∨ engineTurn u = .next t) := by
  obtain ⟨rest, -, hx⟩ | ⟨a, rest, hin, hx⟩ | ⟨a, rest, hin, hx⟩ | ⟨rest, hin, -⟩ := step_cases s
  · exact .inr (.inl ⟨rest, hx ▸ h⟩)
  · exact .inr (.inr ⟨a, rest, t, .inl hin, hx ▸ h, .inl rfl⟩)
  · rw [hx] at h
    obtain ⟨-, hu⟩ | ⟨-, u, hu, ht⟩ := hostAndEngineStep_cases a _ t h
    · exact .inr (.inr ⟨a, rest, t, .inr hin, hu, .inl rfl⟩)
    · exact .inr (.inr ⟨a, rest, u, .inr hin, hu, .inr ht⟩)
  · exact .inl ⟨rest, hin⟩

/-- OVR stays until the host clears it or a reset. -/
theorem step_ovr {s t : State} (hbase : s.cfg.regBase.toNat % 8 = 0) (h : step s = .next t)
    (hs : s.status.ovr = true) : t.status.ovr = true ∨
      (∃ v : Word, v.getLsbD 3 = true ∧ storeArrives s 0x028 v) ∨ ∃ rest, nextIsReset s rest := by
  obtain ⟨rest, hin⟩ | ⟨rest, ht⟩ | ⟨a, rest, u, hin, hu, ht⟩ := step_parts h
  · exact .inr (.inr ⟨rest, .inl hin⟩)
  · exact .inl ((engineTurn_ovr ht).trans hs)
  · obtain hovr | ⟨v, hv, rfl⟩ | ⟨v, hv, rfl⟩ := hostStep_ovr hu hs
    · obtain rfl | ht := ht
      · exact .inl hovr
      · exact .inl ((engineTurn_ovr ht).trans hovr)
    · exact .inr (.inr ⟨rest, .inr ⟨v, hv, hin.imp (⟨hbase, ·⟩) (⟨hbase, ·⟩)⟩⟩)
    · exact .inr (.inl ⟨v, hv, rest, hin.imp (⟨hbase, ·⟩) (⟨hbase, ·⟩)⟩)

/-! ## Acceptance (60_exceptions R536) -/

theorem step_accepts {s : State} {c : Word} {rest : List Input} (hb : s.status.busy = false)
    (h : nextIsStore s 0x010 c rest) : step s = .next (({ s with inputs := rest } : State).accept c) := by
  rw [step_store_register (r := .cmd) h rfl, writeReg, if_neg (by simp [hb])]

theorem step_overruns {s : State} {c : Word} {rest : List Input} (hb : s.status.busy = true)
    (h : nextIsStore s 0x010 c rest) :
    step s = .next { s with inputs := rest, status := statusOverrun s.status } := by
  rw [step_store_register (r := .cmd) h rfl, writeReg, if_pos hb]

/-- Settles O6: acceptance and overrun are one store each, the accepted word is what the engine runs next, and OVR is
kept by the engine and by the host's other accesses. -/
theorem cmdRegister : Obligations.CmdRegister := by
  refine ⟨fun s c rest hb h => ⟨step_accepts hb h, fun t i rest' ht hz hrest hd => ?_⟩,
    fun s c rest hb h => step_overruns hb h, fun s t hlegal h hs => step_ovr hlegal.2.1 h hs⟩
  obtain rfl := Host.Outcome.next.inj ((step_accepts hb h).symm.trans ht)
  exact ⟨rfl, rfl, rfl, rfl, rfl, rfl, step_undisturbed (.inl hrest) rfl hz hd⟩

/-! ## Resets (70_reset R580 to R582) -/

/-- A reset leaves the reset state, but for the data memory and the model's record of the host's side. -/
theorem doReset_eq (s : State) : s.doReset = { State.resetOf s.cfg with
    mem := s.doReset.mem, inputs := s.inputs, hostData := s.hostData, fresh := s.doReset.fresh } := by
  unfold State.doReset State.toReset
  split
  · rw [havocRanges_eq]
  · rfl

theorem doReset_idle {s : State} (hb : s.status.busy = false) : s.doReset = s.toReset := if_neg (by simp [hb])

/-- A reset changes the bytes alone that the abandoned command could have written (log 14). -/
theorem sameOutsideRanges_doReset (s : State) : sameOutsideRanges s.mem s.doReset.mem (runningWrites s) := by
  unfold State.doReset
  split
  · exact sameOutsideRanges_havocRanges s _
  · exact sameOutsideRanges_refl _ _

/-- A soft reset in the step of a completion leaves the engine nothing to complete (60_exceptions R546). -/
theorem hostAndEngineStep_of_reset {a : HostAccess} {s : State} (h : hostStep a s = .next s.doReset) :
    hostAndEngineStep a s = .next s.doReset := by
  unfold hostAndEngineStep
  split
  · have hidle : s.doReset.status.busy = false := by rw [doReset_eq]; rfl
    rw [h]
    exact if_neg (by simp [hidle])
  · exact h

/-- A reset takes effect in the step it arrives in, in whatever form. -/
theorem step_reset {s : State} {rest : List Input} (h : nextIsReset s rest) :
    step s = .next (State.doReset { s with inputs := rest }) := by
  obtain hin | ⟨v, hv, hst | ⟨hbase, hin⟩⟩ := h
  · unfold step stepInputs
    rw [hin]
  · rw [step_store_register (r := .ctrl) hst rfl, writeReg, if_pos hv]
  · have hhost : hostStep (.regStore 8 (s.cfg.regBase + u64 0x020) v) { s with inputs := rest } =
        .next (writeReg .ctrl v { s with inputs := rest }) :=
      windowAccess_at (s := { s with inputs := rest }) hbase (by decide) (by decide) _ _
    rw [writeReg, if_pos hv] at hhost
    unfold step stepInputs
    rw [hin]
    exact hostAndEngineStep_of_reset hhost

/-- Settles O18: each form of reset is one reset of the state, whatever it finds the engine doing. -/
theorem resetEndsEverything : Obligations.ResetEndsEverything := by
  intro s rest h
  refine ⟨_, step_reset h, doReset_eq { s with inputs := rest }, fun hb => ?_, ?_⟩
  · rw [doReset_idle (s := { s with inputs := rest }) hb]
    exact ⟨rfl, rfl⟩
  · rw [← runningWrites_withInputs s rest]
    exact sameOutsideRanges_doReset { s with inputs := rest }

/-! ## System commands (48_system R510, R511) -/

theorem exec_unitReset_of_mask {s : State} (h : s.args.a0.toNat < 2 ^ 7) :
    exec .unitReset s = .next (s.resetUnits s.args.a0).complete := by
  rw [exec, execUnitReset, require_pos h, conclude_none]

theorem exec_unitReset_rejected {s : State} (h : 2 ^ 7 ≤ s.args.a0.toNat) :
    exec .unitReset s = .next (s.completeErr .invalidArgument s.args.a0) := by
  rw [exec, execUnitReset, require_neg (not_lt.2 h), conclude_some]

/-- Settles O19: the words by their fields, NOP by its completion, UNIT_RESET by its mask. -/
theorem systemCommands : Obligations.SystemCommands := by
  refine ⟨⟨rfl, fun c hc => ?_, fun s => rfl⟩, rfl, fun s => ⟨fun h => ?_, exec_unitReset_rejected⟩⟩
  · obtain ⟨-, hword⟩ := encodeOfDecode c .nop hc
    exact hword.symm
  · exact ⟨_, exec_unitReset_of_mask h, rfl, rfl, rfl, rfl, rfl, rfl, rfl, rfl⟩

end Sys2Proof.Machine
end

section
/-! PROOFS. An error is precise (60_exceptions R531): a rejected command changes nothing but its completion, and only an
error of the input stream, which has one of two codes, changes the decoder and IN_PTR besides (43_delta_decoder R301 to
R303). -/

namespace Sys2Proof.Machine

open Sys2Proof.Laws

/-! ## The errors of the input stream (20_memory R112, 43_delta_decoder R302, R303) -/

/-- The reading fails, if it does, with one of the two errors of an input stream. -/
def StreamFails {α : Type} (x : Except Err α) : Prop :=
  ∀ e, x = .error e → e.1 = .invalidBitWidth ∨ e.1 = .prematureEndOfStream

section Stream

variable {α β : Type}

theorem StreamFails.ok (a : α) : StreamFails (.ok a : Except Err α) := nofun

/-- A reading that fails fails every longer one with its error. -/
theorem StreamFails.error {x : Except Err α} {e : Err} (h : StreamFails x) (he : x = .error e) :
    StreamFails (.error e : Except Err β) := fun _ h' => Except.error.inj h' ▸ h e he

theorem StreamFails.ended (v : Word) : StreamFails (.error (.prematureEndOfStream, v) : Except Err α) :=
  fun _ h => .inr (Except.error.inj h ▸ rfl)

theorem StreamFails.wide (v : Word) : StreamFails (.error (.invalidBitWidth, v) : Except Err α) :=
  fun _ h => .inl (Except.error.inj h ▸ rfl)

variable (m : Memory) (fin : Nat)

theorem streamByte_fails (p : Nat) : StreamFails (streamByte m fin p) := by
  unfold streamByte
  split
  · exact .ended _
  · exact .ok _

theorem streamBytes_fails (n acc p : Nat) : StreamFails (streamBytes m fin n acc p) := by
  induction n generalizing acc p with
  | zero => exact .ok _
  | succ n ih =>
    unfold streamBytes
    split
    · next he => exact (streamByte_fails m fin p).error he
    · exact ih _ _

theorem streamSkip_fails (n p : Nat) : StreamFails (streamSkip fin n p) := by
  unfold streamSkip
  split
  · exact .ended _
  · exact .ok _

theorem streamBvlGroups_fails (k sh acc p : Nat) : StreamFails (streamBvlGroups m fin k sh acc p) := by
  induction k generalizing sh acc p with
  | zero =>
    unfold streamBvlGroups
    split
    · next he => exact (streamByte_fails m fin p).error he
    · exact .ok _
  | succ k ih =>
    unfold streamBvlGroups
    split
    · next he => exact (streamByte_fails m fin p).error he
    · split
      · exact .ok _
      · exact ih _ _ _

theorem streamBvl_fails (p : Nat) : StreamFails (streamBvl m fin p) := by
  unfold streamBvl
  split
  · next he => exact (streamBvlGroups_fails m fin 8 0 0 p).error he
  · exact .ok _

theorem streamToken_fails (p : Nat) : StreamFails (streamToken m fin p) := by
  unfold streamToken
  split
  · next he => exact (streamByte_fails m fin p).error he
  · split
    · exact .wide _
    · exact .ok _

theorem streamBaseline_fails (z p : Nat) : StreamFails (streamBaseline m fin z p) := by
  unfold streamBaseline
  split
  · exact .ok _
  · split
    · next he => exact (streamBvl_fails m fin p).error he
    · exact .ok _

theorem refillBlock_fails (mono : Bool) (c p : Nat) : StreamFails (refillBlock mono c m fin p) := by
  unfold refillBlock
  split
  · next he => exact (streamToken_fails m fin p).error he
  · split
    · next he => exact (streamBaseline_fails m fin _ _).error he
    · split
      · next he => exact (streamBytes_fails m fin _ _ _).error he
      · dsimp only
        split
        · next he => exact (streamBytes_fails m fin _ _ _).error he
        · exact .ok _

theorem skipBlock_fails (mono : Bool) (b p : Nat) : StreamFails (skipBlock mono b m fin p) := by
  unfold skipBlock
  split
  · next he => exact (streamToken_fails m fin p).error he
  · split
    · next he => exact (streamBaseline_fails m fin _ _).error he
    · split
      · next he => exact (streamSkip_fails fin _ _).error he
      · exact streamSkip_fails fin _ _

theorem skipBlocks_fails (mono : Bool) (b k p : Nat) : StreamFails (skipBlocks mono b m fin k p) := by
  induction k generalizing p with
  | zero => exact .ok _
  | succ k ih =>
    unfold skipBlocks
    split
    · next he => exact (skipBlock_fails m fin mono b p).error he
    · exact ih _

theorem ddRefill_fails (d : DeltaDecoder) (consumed p : Nat) : StreamFails (ddRefill d consumed m fin p) := by
  unfold ddRefill
  split
  · next he => exact (refillBlock_fails m fin _ _ p).error he
  · exact .ok _

theorem ddSkipTo_fails (d : DeltaDecoder) (n p : Nat) : StreamFails (ddSkipTo d n m fin p) := by
  unfold ddSkipTo
  dsimp only
  split
  · next he => exact (skipBlocks_fails m fin _ _ _ p).error he
  · split
    · exact .ok _
    · split
      · next he => exact (ddRefill_fails m fin _ _ _).error he
      · exact .ok _

end Stream

theorem ddNextEffect_fails (s : State) : StreamFails (ddNextEffect s) := by
  have hfetch : StreamFails (ddFetch s) := by
    unfold ddFetch
    split
    · exact ddRefill_fails _ _ _ _ _
    · exact .ok _
  unfold ddNextEffect
  split
  · next he => exact hfetch.error he
  · exact .ok _

theorem ddSkipEffect_fails (s : State) : StreamFails (ddSkipEffect s) := by
  unfold ddSkipEffect
  split
  · exact .ok _
  · split
    · next he => exact (ddSkipTo_fails _ _ _ _ _).error he
    · exact .ok _

/-! ## Commands that end with an error (60_exceptions R531) -/

/-- A completion without error reports none (10_state R34). -/
theorem err_of_statusComplete {s t : State} (hs : s.status.err = false) (h : t.status = statusComplete s.status) :
    t.status.err ≠ true := by
  rw [h, statusComplete_err, hs]
  exact Bool.false_ne_true

/-- The command is rejected, with no effect besides its completion. -/
def Rejected (s t : State) : Prop := ∃ e v, t = s.completeErr e v

/-- The command ends with a fatal error of the input stream. -/
def EndsFatally (s t : State) : Prop :=
  ∃ e v, (e = .invalidBitWidth ∨ e = .prematureEndOfStream) ∧ t = s.poison.completeErr e v

/-- The command of a reader that ends with an error is rejected or ends fatally, and then by an error of the stream. -/
theorem concludeStream_err {s t : State} {c : Check} {f : Unit → Except Err State} (h : s.concludeStream c f = .next t)
    (hf : StreamFails (f ())) (hok : ∀ u, f () = .ok u → u.status.err = false) (ht : t.status.err = true) :
    Rejected s t ∨ EndsFatally s t := by
  obtain ⟨e, -, rfl⟩ | ⟨-, e, he, rfl⟩ | ⟨-, u, hu, rfl⟩ := concludeStream_cases s t c f h
  · exact .inl ⟨_, _, rfl⟩
  · exact .inr ⟨_, _, hf e he, rfl⟩
  · rw [State.complete_status, statusComplete_err, hok u hu] at ht
    cases ht

theorem exec_deltaDecoder_err {i : Instr} {s t : State} (hi : unitOf i = .deltaDecoder) (hs : s.status.err = false)
    (h : exec i s = .next t) (ht : t.status.err = true) :
    Rejected s t ∨ ((i = .ddNext ∨ i = .ddSkip) ∧ EndsFatally s t) := by
  cases i
  case ddInit | ddInitMono =>
    simp only [exec, execDdInit, execDdInitMono] at h
    obtain ⟨-, rfl⟩ | ⟨e, -, rfl⟩ := conclude_cases s t _ _ h
    · exact absurd ht (err_of_statusComplete hs rfl)
    · exact .inl ⟨_, _, rfl⟩
  case ddNext =>
    simp only [exec, execDdNext] at h
    refine (concludeStream_err h (ddNextEffect_fails s) (fun u hu => ?_) ht).imp_right
      fun hfatal => ⟨.inl rfl, hfatal⟩
    obtain ⟨d, p, -, rfl⟩ := ddNextEffect_ok hu
    exact hs
  case ddSkip =>
    simp only [exec, execDdSkip] at h
    refine (concludeStream_err h (ddSkipEffect_fails s) (fun u hu => ?_) ht).imp_right
      fun hfatal => ⟨.inr rfl, hfatal⟩
    obtain ⟨-, rfl⟩ | ⟨-, d, p, -, rfl⟩ := ddSkipEffect_ok hu <;> exact hs
  all_goals cases hi

/-- A command that ends with an error is rejected, or it is a command of a reader that ends fatally. -/
theorem exec_err {i : Instr} {s t : State} (hs : s.status.err = false) (h : exec i s = .next t)
    (ht : t.status.err = true) : Rejected s t ∨ ((i = .ddNext ∨ i = .ddSkip) ∧ EndsFatally s t) := by
  obtain ⟨u, hu, -, rfl⟩ | hrej | ⟨hi, -⟩ := exec_cases i s t h
  · exact absurd ht (err_of_statusComplete hs (congrArg statusComplete hu.status))
  · exact .inl hrej
  · exact exec_deltaDecoder_err hi hs h ht

/-- Settles O8: an error is a rejection or a fatal one of a reader; an illegal word is rejected by the engine's turn. -/
theorem errorsArePrecise : Obligations.ErrorsArePrecise := by
  refine ⟨fun i s t hs h ht => ?_, fun s e rest hin hb hz he => ?_⟩
  · refine (exec_err hs h ht).imp_right ?_
    rintro ⟨hi, e, v, he, rfl⟩
    exact ⟨hi, rfl, e, v, he, rfl⟩
  · rw [step_engine hin]
    exact engineTurn_illegal hb hz he

end Sys2Proof.Machine
end

section
/-! PROOFS. The Elias-Fano decoder (47_ef_decoder R470 to R482): how it is opened, where its movements go over a valid
encoding and what they report, and which of them its direction lets through. -/

namespace Sys2Proof.Machine

/-! ## Opening (R475, R480) -/

theorem exec_efdInit_of_check {s : State} (hc : checkEfInit s.cfg (efLayoutOfArgs s.args) = none) :
    exec .efdInit s = .next (({ s with efd := efdInitContext s.args }).setRes0
      (u64 (efParamsOf (efLayoutOfArgs s.args)).l)).complete := by
  rw [exec, execEfdInit, hc, conclude_none]

theorem exec_efdToBefore_of_ready {s : State} (hs : s.efd.state = .ready) :
    exec .efdToBefore s = .next ({ s with efd := { s.efd with idx := -1, hp := -1, dir := .forward } }).complete := by
  rw [exec, execEfdToBefore, (checkEfdReady_eq_none s).2 hs, conclude_none]

/-- Settles O53: the checks pass, and neither command reads the regions. -/
theorem efdInitOpens : Obligations.EfdInitOpens :=
  fun _ => ⟨fun hu hi hn hr => exec_efdInit_of_check (checkEfInit_eq_none hu hi hn hr), exec_efdToBefore_of_ready⟩

/-! ## High positions and reported values (R471, R472) -/

section Report

variable {l : Nat} {xs : List Nat}

theorem highPos_inside {k : Nat} (hk : k < xs.length) :
    highPos l xs (k : Int) = (k : Int) + ((xs.getD k 0 / 2 ^ l : Nat) : Int) := by
  rw [highPos, if_neg (by omega), if_pos (by omega), Int.toNat_natCast, efHigh]

theorem highPos_after : highPos l xs (xs.length : Int) =
    if xs = [] then 0 else (xs.length : Int) + ((xs.getLastD 0 / 2 ^ l : Nat) : Int) := by
  rw [highPos, if_neg (by omega), if_neg (by omega), efHigh]
  exact if_congr List.length_eq_zero_iff rfl rfl

theorem reportValue_inside {k : Nat} (hk : k < xs.length) : reportValue xs (k : Int) = u64 (xs.getD k 0) := by
  rw [reportValue, if_pos (by omega), Int.toNat_natCast]

theorem reportValue_outside {i : Int} (hi : i < 0 ∨ (xs.length : Int) ≤ i) : reportValue xs i = noMoreValues :=
  if_neg (by omega)

/-- The high position and the result after a movement with its report are those of the index moved to. -/
theorem reportedAt_moveTo (s : State) (xs : List Nat) (j : Int) :
    reportedAt xs s.efd.l.toNat j ((s.moveTo xs j).report xs).complete := by
  have hempty (h : 0 < xs.length) : xs ≠ [] := List.ne_nil_of_length_pos h
  refine ⟨rfl, rfl, ?_, fun k hk hj => ?_, fun hj h => ?_, fun hj h => ?_, fun k hk hj => ?_, reportValue_outside⟩
  · rintro rfl
    rfl
  · subst hj
    exact highPos_inside hk
  · subst hj
    exact highPos_after.trans (if_neg (hempty h))
  · subst hj
    exact highPos_after.trans (if_pos (List.length_eq_zero_iff.1 h))
  · subst hj
    exact reportValue_inside hk

end Report

/-! ## Where the movements go (R476 to R479) -/

/-- In a list in the order `r`, no entry before the one a search finds passes the test. -/
theorem not_of_find?_eq_some_of_rel {r : Nat → Nat → Prop} [Std.Asymm r] {l : List Nat} {p : Nat → Bool} {j : Nat}
    (hl : l.Pairwise r) (h : l.find? p = some j) : ∀ k ∈ l, r k j → ¬ p k := by
  obtain ⟨-, before, after, rfl, hbefore⟩ := List.find?_eq_some_iff_append.1 h
  obtain ⟨-, hafter, -⟩ := List.pairwise_append.1 hl
  intro k hmem hr
  obtain hmem | hmem := List.mem_append.1 hmem
  · simpa using hbefore k hmem
  · obtain rfl | hmem := List.mem_cons.1 hmem
    · exact absurd hr (asymm_of r hr)
    · exact absurd ((List.pairwise_cons.1 hafter).1 k hmem) (asymm_of r hr)

section Targets

variable {idx : Int} {t : Nat} {xs : List Nat}

/-- `EFD_ADVANCE` goes to the first value after the cursor that is at least `t`, and to the end without one (R477). -/
theorem efdAdvanceIndex_spec (hle : idx ≤ (xs.length : Int)) :
    idx < efdAdvanceIndex idx t xs + (if idx = (xs.length : Int) then 1 else 0) ∧
    efdAdvanceIndex idx t xs ≤ (xs.length : Int) ∧
    (efdAdvanceIndex idx t xs < (xs.length : Int) → t ≤ xs.getD (efdAdvanceIndex idx t xs).toNat 0) ∧
    ∀ k : Nat, idx < (k : Int) → (k : Int) < efdAdvanceIndex idx t xs → xs.getD k 0 < t := by
  unfold efdAdvanceIndex
  split
  · next j hj =>
    have hfirst := not_of_find?_eq_some_of_rel List.pairwise_lt_range hj
    have hmem := List.mem_range.1 (List.mem_of_find?_eq_some hj)
    have hfound := List.find?_some hj
    simp only [Bool.and_eq_true, decide_eq_true_eq, not_and, not_le] at hfirst hfound
    refine ⟨by split <;> omega, by omega, fun _ => hfound.2, fun k hk hlt => ?_⟩
    exact hfirst k (List.mem_range.2 (by omega)) (by omega) (by omega)
  · next hnone =>
    simp only [List.find?_eq_none, Bool.and_eq_true, decide_eq_true_eq, not_and, not_le] at hnone
    refine ⟨by split <;> omega, le_rfl, fun h => absurd h (lt_irrefl _), fun k hk hlt => ?_⟩
    exact hnone k (List.mem_range.2 (by omega)) (by omega)

/-- `EFD_BACK` goes to the last value before the cursor that is at most `t`, and before the sequence without one
(R479). -/
theorem efdBackIndex_spec (hidx : -1 ≤ idx) (hle : idx ≤ (xs.length : Int)) :
    efdBackIndex idx t xs < idx + (if idx = -1 then 1 else 0) ∧ -1 ≤ efdBackIndex idx t xs ∧
    (0 ≤ efdBackIndex idx t xs → xs.getD (efdBackIndex idx t xs).toNat 0 ≤ t) ∧
    ∀ k : Nat, efdBackIndex idx t xs < (k : Int) → (k : Int) < idx → t < xs.getD k 0 := by
  unfold efdBackIndex
  split
  · next j hj =>
    have hlast := not_of_find?_eq_some_of_rel (r := (· > ·)) (List.pairwise_reverse.2 List.pairwise_lt_range) hj
    have hfound := List.find?_some hj
    simp only [Bool.and_eq_true, decide_eq_true_eq, not_and, not_le] at hlast hfound
    refine ⟨by split <;> omega, by omega, fun _ => hfound.2, fun k hk hlt => ?_⟩
    exact hlast k (List.mem_reverse.2 (List.mem_range.2 (by omega))) (by omega) (by omega)
  · next hnone =>
    simp only [List.find?_eq_none, Bool.and_eq_true, decide_eq_true_eq, not_and, not_le] at hnone
    refine ⟨by split <;> omega, le_rfl, fun h => absurd h (by decide), fun k hk hlt => ?_⟩
    exact hnone k (List.mem_reverse.2 (List.mem_range.2 (by omega))) (by omega)

end Targets

/-! ## The commands over a valid encoding (R476 to R482) -/

/-- What a movement to the index `j` over the sequence `xs` leaves. -/
def Moved (s : State) (xs : List Nat) (i : Instr) (j : Int) : Prop :=
  ∃ t, exec i s = .next t ∧
    t = ({ s with efd := { s.efd with idx := t.efd.idx, hp := t.efd.hp }
                  res := { s.res with r0 := t.res.r0, r1 := t.res.r1 } }).complete ∧
    reportedAt xs s.efd.l.toNat j t

section Commands

variable {s : State} {xs : List Nat}

theorem length_of_efdSequence (h : efdSequence s = some xs) : xs.length = s.efd.n.toNat := by
  obtain ⟨-, hseq⟩ := (efdSequence_eq_some s xs).1 h
  obtain ⟨-, ⟨hlen, -⟩, -⟩ := efSequence_eq_some_iff.1 hseq
  exact hlen

theorem moved_of_conclude {i : Instr} {c : Check} {target : List Nat → Int} (h : efdSequence s = some xs)
    (hx : exec i s = s.conclude c fun _ => s.efdMove target) (hc : c = none) : Moved s xs i (target xs) := by
  rw [hc, conclude_none, State.efdMove, h] at hx
  exact ⟨_, hx, rfl, reportedAt_moveTo s xs (target xs)⟩

theorem exec_efdToAfter_of_sequence (hs : s.efd.state = .ready) (h : efdSequence s = some xs) :
    exec .efdToAfter s = .next ({ s with
      efd := { s.efd with idx := (xs.length : Int), hp := highPos s.efd.l.toNat xs (xs.length : Int)
                          dir := .backward } }).complete := by
  rw [exec, execEfdToAfter, (checkEfdReady_eq_none s).2 hs, conclude_none, efdToAfterEffect, h,
    length_of_efdSequence h]
  rfl

theorem exec_efdCurrent_of_sequence (hs : s.efd.state = .ready) (h : efdSequence s = some xs) :
    exec .efdCurrent s = .next (s.report xs).complete := by
  rw [exec, execEfdCurrent, (checkEfdReady_eq_none s).2 hs, conclude_none, efdCurrentEffect, h]

/-- The value reported at an index of the cursor, or the one for none (R471). -/
theorem reportValue_eq (xs : List Nat) (i : Int) : reportValue xs i =
    if 0 ≤ i ∧ i < (xs.length : Int) then u64 (xs.getD i.toNat 0) else 0xFFFFFFFFFFFFFFFF := rfl

end Commands

/-- Settles O54: each movement is one report at the index its rule gives. -/
theorem efdMovements : Obligations.EfdMovements := by
  intro s xs hs hseq hlow hhigh
  refine ⟨fun hd => ⟨?_, _, ?_, efdAdvanceIndex_spec (t := s.args.a0.toNat) hhigh⟩,
    fun hd => ⟨?_, _, ?_, efdBackIndex_spec (t := s.args.a0.toNat) hlow hhigh⟩,
    ⟨_, exec_efdToAfter_of_sequence hs hseq, rfl, highPos_after⟩,
    ⟨_, exec_efdCurrent_of_sequence hs hseq, rfl, reportValue_eq xs s.efd.idx⟩⟩
  · exact moved_of_conclude (target := efdNextIndex s.efd.idx) hseq rfl (efdAdmitted hs hd)
  · exact moved_of_conclude hseq rfl (efdAdmitted hs hd)
  · exact moved_of_conclude (target := fun _ => efdPrevIndex s.efd.idx) hseq rfl (efdAdmitted hs hd)
  · exact moved_of_conclude hseq rfl (efdAdmitted hs hd)

/-! ## The direction (R473) -/

section Direction

variable {s t : State} {i : Instr}

/-- A movement forward checks that the decoder is open and goes forward. -/
theorem efdForward_checks (s : State) :
    ∀ i ∈ [Instr.efdNext, .efdAdvance], ChecksFirst i s ((checkEfdReady s).or (checkDirection s .forward)) := by
  simp only [List.forall_mem_cons]
  exact ⟨.of_conclude (by rw [exec, execEfdNext]), .of_conclude (by rw [exec, execEfdAdvance]), nofun⟩

/-- A movement backward checks that the decoder is open and goes backward. -/
theorem efdBackward_checks (s : State) :
    ∀ i ∈ [Instr.efdPrev, .efdBack], ChecksFirst i s ((checkEfdReady s).or (checkDirection s .backward)) := by
  simp only [List.forall_mem_cons]
  exact ⟨.of_conclude (by rw [exec, execEfdPrev]), .of_conclude (by rw [exec, execEfdBack]), nofun⟩

/-- Every command but the initialisation checks first that the decoder is open (47_ef_decoder section 2). -/
theorem efdCommand_checks_ready (s : State) : ∀ i ∈ [Instr.efdNext, .efdAdvance, .efdPrev, .efdBack, .efdToBefore,
    .efdToAfter, .efdCurrent], ChecksFirst i s (checkEfdReady s) := by
  have hforward := efdForward_checks s
  have hbackward := efdBackward_checks s
  simp only [List.forall_mem_cons] at hforward hbackward ⊢
  obtain ⟨hnext, hadvance, -⟩ := hforward
  obtain ⟨hprev, hback, -⟩ := hbackward
  exact ⟨hnext.left, hadvance.left, hprev.left, hback.left, .of_conclude (by rw [exec, execEfdToBefore]),
    .of_conclude (by rw [exec, execEfdToAfter]), .of_conclude (by rw [exec, execEfdCurrent]), nofun⟩

theorem checkDirection_of_ne {d : Direction} (h : s.efd.dir ≠ d) :
    checkDirection s d = some (.directionError, u64 (directionCode s.efd.dir)) := require_neg h ..

/-- A movement against the direction is rejected, and the error says which direction it is. -/
theorem exec_against_direction {d : Direction} (hs : s.efd.state = .ready) (hd : s.efd.dir ≠ d)
    (hi : ChecksFirst i s ((checkEfdReady s).or (checkDirection s d))) :
    exec i s = .next (s.completeErr .directionError (u64 (directionCode s.efd.dir))) :=
  (hi.right ((checkEfdReady_eq_none s).2 hs)).rejected (checkDirection_of_ne hd)

theorem CursorFrame.dir {u : State} {d : Direction} (h : CursorFrame s u d) : u.efd.dir = d := by rw [h]

theorem EffectFrame.efd {k : CommandUnit} {s u : State} (h : EffectFrame k s u) (hd : k ≠ .efDecoder)
    (hall : k ≠ .everyContext) : u.efd = s.efd := by
  cases k
  case efDecoder => exact absurd rfl hd
  case everyContext => exact absurd rfl hall
  all_goals rw [h]

/-- Only a command of its unit or the reset of units changes the Elias-Fano decoder. -/
theorem exec_efd_of_ne (hd : unitOf i ≠ .efDecoder) (hi : i ≠ .unitReset) (h : exec i s = .next t) :
    t.efd = s.efd := by
  obtain ⟨u, hu, -, rfl⟩ | ⟨e, v, rfl⟩ | ⟨-, e, v, rfl⟩ := exec_cases i s t h
  · exact hu.efd hd (mt eq_unitReset_of_everyContext hi)
  · rfl
  · rfl

/-- A command whose effect leaves the direction `d` leaves `d` or what was there. -/
theorem dir_of_conclude {c : Check} {f : Unit → State} {d : Direction} (h : s.conclude c f = .next t)
    (hf : (f ()).efd.dir = d) : t.efd.dir = s.efd.dir ∨ t.efd.dir = d :=
  conclude_keeps (P := fun u => u.efd.dir = s.efd.dir ∨ u.efd.dir = d) h (fun _ _ => .inl rfl) fun _ => .inr hf

/-- The direction a command of the decoder may give it. -/
theorem exec_efDecoder_dir (hi : unitOf i = .efDecoder) (h : exec i s = .next t) : t.efd.dir = s.efd.dir ∨
    (i = .efdInit ∧ t.efd.dir = .forward) ∨ (i = .efdToBefore ∧ t.efd.dir = .forward) ∨
    (i = .efdToAfter ∧ t.efd.dir = .backward) := by
  cases i
  case efdNext | efdAdvance | efdPrev | efdBack =>
    simp only [exec, execEfdNext, execEfdAdvance, execEfdPrev, execEfdBack] at h
    exact .inl ((dir_of_conclude h (efdMove_cursorFrame s _).dir).elim id id)
  case efdCurrent =>
    simp only [exec, execEfdCurrent] at h
    exact .inl ((dir_of_conclude h (efdCurrentEffect_cursorFrame s).dir).elim id id)
  case efdInit =>
    simp only [exec, execEfdInit] at h
    exact (dir_of_conclude h rfl).imp_right fun hdir => .inl ⟨rfl, hdir⟩
  case efdToBefore =>
    simp only [exec, execEfdToBefore] at h
    exact (dir_of_conclude h rfl).imp_right fun hdir => .inr (.inl ⟨rfl, hdir⟩)
  case efdToAfter =>
    simp only [exec, execEfdToAfter] at h
    exact (dir_of_conclude h (efdToAfterEffect_cursorFrame s).dir).imp_right fun hdir => .inr (.inr ⟨rfl, hdir⟩)
  all_goals cases hi

end Direction

/-- Settles O55: the direction is the second check of a movement, being open the first of every command; and the
direction is what the effects of the decoder's own commands make of it. -/
theorem efdDirections : Obligations.EfdDirections := by
  refine ⟨fun s hs => ⟨fun hd i hi => ?_, fun hd i hi => ?_⟩, fun s t i h hne => ?_, fun s hs i hi => ?_⟩
  · have hx := exec_against_direction hs (by rw [hd]; decide) (efdForward_checks s i hi)
    rwa [hd] at hx
  · have hx := exec_against_direction hs (by rw [hd]; decide) (efdBackward_checks s i hi)
    rwa [hd] at hx
  · by_cases hreset : i = .unitReset
    · exact .inr (.inr (.inr hreset))
    by_cases hunit : unitOf i = .efDecoder
    · obtain hkept | hinit | hbefore | hafter := exec_efDecoder_dir hunit h
      · exact absurd hkept hne
      · exact .inl hinit
      · exact .inr (.inl hbefore)
      · exact .inr (.inr (.inl hafter))
    · exact absurd (by rw [exec_efd_of_ne hunit hreset h]) hne
  · exact (efdCommand_checks_ready s i hi).rejected (require_neg (by rw [hs]; decide) ..)

end Sys2Proof.Machine
end
